-- ==== Sys2Proof/Word.lean ====
section
/-! DEFINITION. The word types of the block: the data word, the selector and the offset. -/

namespace Sys2Proof

/-- The 32-bit data word of a transaction (30_encoding.md R70). -/
abbrev Word := BitVec 32

/-- The 9-bit selector: bit 8 is `W`, bits 7..0 the byte offset (30_encoding.md R70). -/
abbrev Selector := BitVec 9

/-- A byte offset in the register space (20_memory.md R50). -/
abbrev Offset := BitVec 8

end Sys2Proof
end

