-- ==== Sys2Proof/Config.lean ====
section
/-! DEFINITION. The configuration of the block: the constants of 00_scope.md R7 and R8 (stuck at the
spec's values, 93_implementation_defined.md I4), the types whose widths they are, and the two open register
values of R9. The third open parameter, NUMERICS, is Config.numerics in Machine/Numerics.lean. -/

namespace Sys2Proof

/-- The two tones of the block: A is 2500 Hz and stands for bit 0, B is 5000 Hz and stands for bit 1
(43_correlator.md R166). -/
inductive Tone where
  | a
  | b
  deriving DecidableEq, Repr

/-- Which finite-precision arithmetic a machine has (00_scope.md R9 `NUMERICS`). -/
inductive Arithmetic where
  /-- the open parameter, `Config.numerics` (Machine/Numerics.lean) -/
  | parameter
  /-- one concrete arithmetic, which a run can be evaluated in: `Numerics.fixedPoint` -/
  | fixedPoint
  deriving DecidableEq, Repr

namespace Config

/-- `FS`, the sample rate in Hz (R7). -/
abbrev fs : Nat := 44100
/-- `SAMPLE_W`, bits per sample (R7). -/
abbrev sampleW : Nat := 16
/-- `CARRY_LEN`, the length of the carry buffer (R7). -/
abbrev carryLen : Nat := 32
/-- `WIN_LEN = floor(FS / 40) = 1102`, the length of the analysis window (R7, 90_conflicts.md C3). -/
abbrev winLen : Nat := 1102
/-- `PROBE_N`, samples examined per probe (R7). -/
abbrev probeN : Nat := 5
/-- `PROBE_MIN`, samples that must exceed the threshold (R7). -/
abbrev probeMin : Nat := 4
/-- `THRESH_RESET`, the reset value of the threshold register (R7). -/
abbrev threshReset : BitVec 16 := 1024#16
/-- `AGC_FULL`, the AGC full-scale numerator (R7). -/
abbrev agcFull : Nat := 32768
/-- `F_A` and `F_B`, the tone frequencies in Hz (R7). -/
abbrev toneHz : Tone → Nat
  | .a => 2500
  | .b => 5000
/-- `INT_N`, the trailing block length of the first energy pass (R7). -/
abbrev intN : Nat := 16
/-- `SMOOTH_N`, the taps of the second smoothing pass (R7). -/
abbrev smoothN : Nat := 16
/-- `COH_THRESH`, the coherence threshold on combined energy (R7). -/
abbrev cohThresh : Nat := 4096
/-- `BIT_W`, samples per bit interval (R7). -/
abbrev bitW : Nat := 54
/-- `NBITS`, bits per codeword (R7). -/
abbrev nBits : Nat := 15
/-- `CAND_W`, bits of the candidate word (R7). -/
abbrev candW : Nat := 13
/-- `MASKS`, the parity-check masks in their order (R7). -/
abbrev masks : List (BitVec 16) := [0x5555#16, 0x6666#16, 0x7878#16, 0x7F80#16]
/-- `PARITY_POS`, the 1-indexed positions of the redundancy bits (R7). -/
abbrev parityPos : List Nat := [1, 2, 4, 8]
/-- `FAIL_WORD`, the decode-failed sentinel of the ECC stage (R7). -/
abbrev failWord : BitVec 16 := 0xFFFF#16

/-- `HALF = BIT_W / 2` (R8). -/
abbrev half : Nat := bitW / 2
/-- `FRAME_SPAN = NBITS * BIT_W` (R8). -/
abbrev frameSpan : Nat := nBits * bitW
/-- `MAX_ORIGIN = WIN_LEN - FRAME_SPAN` (R8). -/
abbrev maxOrigin : Nat := winLen - frameSpan

/-- `PAYLOAD_W = CAND_W - 4`, bits of decoded payload (R8): the bits that carry no redundancy. -/
abbrev payloadW : Nat := candW - parityPos.length

/-- `VERSION_ID`, the value of the VERSION register: an open parameter (R9, I1). -/
opaque versionId : Word
/-- `BUILD_DATE`, the value of the BUILD_DATE register: an open parameter (R9, I2). -/
opaque buildDate : Word

end Config

/-- One sample, `SAMPLE_W` bits in two's complement (00_scope.md R7, R11 `int16`). -/
abbrev Sample := BitVec Config.sampleW

/-- A codeword of `NBITS` bits (00_scope.md R7). -/
abbrev Codeword := BitVec Config.nBits

/-- An ECC candidate of `CAND_W` bits (00_scope.md R7). -/
abbrev Candidate := BitVec Config.candW

end Sys2Proof
end

