-- ==== Sys2Proof/Syntax.lean ====
section
/-! DEFINITION. The transactions of the block: the eleven operations (`Instr`), their encoded form (`Request`)
and what the environment puts on the port (`PortEvent`). -/

namespace Sys2Proof

/-- The eleven operations of 30_encoding.md R74, one constructor per row of opcode_table.json. A write
carries its whole data word: every value is legal, and the operation takes its operand fields out of it
(R73, R76). -/
inductive Instr where
  /-- PUSH: write SAMPLE_IN, submit one sample (R100). -/
  | push (wdata : Word)
  /-- WR_CTRL: write CTRL (R220). -/
  | wrCtrl (wdata : Word)
  /-- RD_CTRL: read CTRL (R221). -/
  | rdCtrl
  /-- WR_CMD: write CMD (R222). -/
  | wrCmd (wdata : Word)
  /-- RD_STATUS: read STATUS (R225). -/
  | rdStatus
  /-- WR_THRESH: write THRESH (R226). -/
  | wrThresh (wdata : Word)
  /-- RD_THRESH: read THRESH (R227). -/
  | rdThresh
  /-- RD_RESULT: read RESULT, take-if-valid (R228). -/
  | rdResult
  /-- RD_LAST: read LAST_OUTCOME (R230). -/
  | rdLast
  /-- RD_VERSION: read VERSION (R231). -/
  | rdVersion
  /-- RD_BUILD_DATE: read BUILD_DATE (R232). -/
  | rdBuildDate
  deriving DecidableEq, Repr

/-- A transaction as it stands on the port: the selector, and the data word of a write. A read has no
data phase; a transport that carries one sets it to 0 (R70, R71). -/
structure Request where
  sel : Selector
  wdata : Word
  deriving DecidableEq, Repr

/-- Who issues a transaction (20_memory.md R59, 60_exceptions.md R262). No rule of the block reads it. -/
inductive Agent where
  | capture
  | host
  deriving DecidableEq, Repr

/-- A transaction of an agent. `expectsError` says that its line is written '-> BusError' (R77): its
issuer goes on after an error response, where any other program takes one as a fault (R254). -/
structure Txn where
  agent : Agent
  request : Request
  expectsError : Bool
  deriving DecidableEq, Repr

/-- One event at the block's port: a transaction, or an assertion of the reset input, which may come
between any two transactions (70_reset_and_hazards.md R280). -/
inductive PortEvent where
  | txn (t : Txn)
  | reset
  deriving DecidableEq, Repr

end Sys2Proof
end

