-- ==== Sys2Proof/WellFormed.lean ====
section
/-! DEFINITION. Which requests are well formed: an aligned offset, a mapped register, an access its register
allows, and no data word on a read. -/

namespace Sys2Proof

/-- `sel[8]`: 1 for a write, 0 for a read (30_encoding.md R70). -/
def Request.isWrite (r : Request) : Bool := r.sel.getLsbD 8

/-- `sel[7:0]`: the byte offset (30_encoding.md R70). -/
def Request.off (r : Request) : Offset := r.sel.setWidth 8

/-- The offset is a multiple of 4 (20_memory.md R54). -/
def Request.aligned (r : Request) : Bool := r.off.toNat % 4 == 0

/-- The offset lies below 0x24, where the nine registers end (20_memory.md R51). -/
def Request.mapped (r : Request) : Bool := decide (r.off.toNat < 0x24)

/-- The register's Access column allows the access (20_memory.md R51, 10_state.md R33): SAMPLE_IN and CMD
are write only, CTRL and THRESH read and write, the others read only. -/
def Request.accessAllowed (r : Request) : Bool :=
  if r.isWrite then [0x00, 0x04, 0x08, 0x10].contains r.off.toNat
  else !([0x00, 0x08].contains r.off.toNat)

/-- A read carries no data word (30_encoding.md R71). -/
def Request.readDataZero (r : Request) : Bool := r.isWrite || r.wdata == 0

/-- The selector is one of the eleven legal ones (30_encoding.md R74, R75). -/
def Request.legal (r : Request) : Bool := r.aligned && r.mapped && r.accessAllowed

/-- A request as an agent must issue it: a legal selector, and no data word on a read (R71, R74). The block
itself ignores the data word of a read, so a request that fails only `readDataZero` still runs. -/
def Request.wellFormed (r : Request) : Bool := r.legal && r.readDataZero

end Sys2Proof
end

