-- ==== Sys2Proof/Decode.lean ====
section
/-! DEFINITION. Decoding a request, total and refusing by name, the table words of the host, and the encoder. -/

namespace Sys2Proof

/-- Why a selector is illegal (30_encoding.md R75, 60_exceptions.md R254). -/
inductive DecodeError where
  /-- `off[1:0] != 0` -/
  | misaligned
  /-- a word offset in 0x24 .. 0xFC -/
  | unmapped
  /-- a read of SAMPLE_IN or CMD -/
  | writeOnly
  /-- a write to STATUS, RESULT, LAST_OUTCOME, VERSION or BUILD_DATE -/
  | readOnly
  deriving DecidableEq, Repr

/-- The name of the refusal of an illegal selector (R75). -/
def decodeError (r : Request) : DecodeError :=
  if r.aligned = false then .misaligned
  else if r.mapped = false then .unmapped
  else if r.isWrite then .readOnly
  else .writeOnly

/-- The operation map of 30_encoding.md R74, and nothing else: every other selector is refused by name. -/
def decode (r : Request) : Except DecodeError Instr :=
  if r.sel = 0x100#9 then .ok (.push r.wdata)
  else if r.sel = 0x104#9 then .ok (.wrCtrl r.wdata)
  else if r.sel = 0x004#9 then .ok .rdCtrl
  else if r.sel = 0x108#9 then .ok (.wrCmd r.wdata)
  else if r.sel = 0x00C#9 then .ok .rdStatus
  else if r.sel = 0x110#9 then .ok (.wrThresh r.wdata)
  else if r.sel = 0x010#9 then .ok .rdThresh
  else if r.sel = 0x014#9 then .ok .rdResult
  else if r.sel = 0x018#9 then .ok .rdLast
  else if r.sel = 0x01C#9 then .ok .rdVersion
  else if r.sel = 0x020#9 then .ok .rdBuildDate
  else .error (decodeError r)

/-- The request whose table bits are `w`: bits 8..0 of the table word are the selector, the data word has
no bits in the table and is 0. -/
def requestOfTableWord (w : Nat) : Request := ⟨BitVec.ofNat 9 w, 0⟩

/-- What the decoder reads from a table word (opcode_table.json: mask 0x1FF). A word with a bit above the
selector's nine is no request (DESIGN CHOICE, log entry 11). -/
def decodeTableWord (_nbits w : Nat) : Option Instr :=
  if w < 512 then
    match decode (requestOfTableWord w) with
    | .ok i => some i
    | .error _ => none
  else none

/-- `RegWrite(off, v)` (30_encoding.md R71). -/
def regWrite (off : Offset) (v : Word) : Request := ⟨0x100#9 ||| off.setWidth 9, v⟩

/-- `RegRead(off)` (30_encoding.md R71). -/
def regRead (off : Offset) : Request := ⟨off.setWidth 9, 0⟩

/-- The request of an operation (20_memory.md R51, 30_encoding.md R71): the encoder. -/
def encode : Instr → Request
  | .push w => regWrite 0x00#8 w
  | .wrCtrl w => regWrite 0x04#8 w
  | .rdCtrl => regRead 0x04#8
  | .wrCmd w => regWrite 0x08#8 w
  | .rdStatus => regRead 0x0C#8
  | .wrThresh w => regWrite 0x10#8 w
  | .rdThresh => regRead 0x10#8
  | .rdResult => regRead 0x14#8
  | .rdLast => regRead 0x18#8
  | .rdVersion => regRead 0x1C#8
  | .rdBuildDate => regRead 0x20#8

end Sys2Proof
end

