-- ==== Sys2Proof/Machine/State.lean ====
section
/-! DEFINITION. The state of the block (10_state.md R22) and the environment's side of its port, as plain data;
the state right after reset; the reasons a step can stop. -/

namespace Sys2Proof.Machine

/-- PHASE (10_state.md R27). -/
inductive Phase where
  | scan
  | accum
  deriving DecidableEq, Repr

/-- The outcome codes of a frame decode (60_exceptions.md R251). Codes 8 to 15 are never produced, so they
have no constructor (93_implementation_defined.md I8; DEDUCED, log entry 13). -/
inductive OutcomeCode where
  /-- 0: no window has completed since reset -/
  | none
  /-- 1: every check passed -/
  | ok
  /-- 2: every window index AMBIGUOUS -/
  | noSignal
  /-- 3: the origin is too late for 15 intervals -/
  | truncated
  /-- 4: some interval has no majority tone -/
  | bitAmbig
  /-- 5: codeword bit 0 is 1 -/
  | header
  /-- 6: codeword bit 14 is 0 -/
  | trailer
  /-- 7: some parity mask fails -/
  | parity
  deriving DecidableEq, Repr

/-- The response to a transaction (30_encoding.md R70, R72). `none` stands only before the first one. -/
inductive Response where
  /-- no transaction since reset -/
  | none
  /-- OKAY, to a write -/
  | okay
  /-- OKAY with `rdata`, to a read -/
  | rdata (v : Word)
  /-- the error response; it carries no value (60_exceptions.md R254) -/
  | error
  deriving DecidableEq, Repr

/-- The state: the ten elements of 10_state.md R22, then three fields of the model's own (log entries 1, 2
and 4). -/
structure State where
  /-- SESSION, the recording flag (R23) -/
  session : Bool
  /-- DECODE_EN, the decoding-enable flag (R24) -/
  decodeEn : Bool
  /-- THRESH (R25) -/
  thresh : BitVec 16
  /-- CARRY, oldest first (R26) -/
  carry : List Sample
  /-- PHASE (R27) -/
  phase : Phase
  /-- WIN, in stream order; WIN_IDX is its length (R28) -/
  win : List Sample
  /-- MB_VALID (R29) -/
  mbValid : Bool
  /-- MB_PAYLOAD (R29) -/
  mbPayload : BitVec 16
  /-- LAST_CODE (R30) -/
  lastCode : OutcomeCode
  /-- LAST_CW (R30) -/
  lastCw : Codeword
  /-- the model's own: the port events still to come, oldest first, in the one total order of R59 (DESIGN
  CHOICE, log entry 1) -/
  pending : List PortEvent
  /-- the model's own: the response to the most recent transaction (R72; DESIGN CHOICE, log entry 2) -/
  resp : Response
  /-- the model's own: which NUMERICS the machine has (R9, R168; DESIGN CHOICE, log entry 4) -/
  arithmetic : Arithmetic
  deriving DecidableEq, Repr

/-- The machine right after reset: 10_state.md R22 and 70_reset_and_hazards.md R280, nothing pending, no
response yet, and NUMERICS open (00_scope.md R9; log entry 4). -/
def State.reset : State where
  session := false
  decodeEn := false
  thresh := Config.threshReset
  carry := []
  phase := .scan
  win := []
  mbValid := false
  mbPayload := 0
  lastCode := .none
  lastCw := 0
  pending := []
  resp := .none
  arithmetic := .parameter

/-- Why a step stops with a fault. -/
inductive Fault where
  /-- Raised by step alone (no operation raises it): the transaction's selector is illegal and its issuer did
  not expect the error response, which is a fault of that program (60_exceptions.md R254,
  93_implementation_defined.md I5). Safe: the machine stops where the block itself would take further
  transactions. -/
  | busError (off : Offset)
  deriving DecidableEq, Repr

/-- Why a step is refused. -/
inductive Refusal where
  /-- An operation without a meaning, raised by exec's arm alone. No arm of this model raises it. Safe. -/
  | notModelled (mnemonic : String)
  deriving DecidableEq, Repr

end Sys2Proof.Machine
end

