-- ==== Sys2Proof/Machine/Flags.lean ====
section
/-! DEFINITION. The words a register read assembles from the state's flags and fields (10_state.md R35 to R42). -/

namespace Sys2Proof.Machine

/-- The number of an outcome code (60_exceptions.md R251). -/
def OutcomeCode.bits : OutcomeCode → BitVec 4
  | .none => 0
  | .ok => 1
  | .noSignal => 2
  | .truncated => 3
  | .bitAmbig => 4
  | .header => 5
  | .trailer => 6
  | .parity => 7

/-- `zext_32` of a single bit. -/
def flagWord (b : Bool) : Word := if b then 1 else 0

/-- STATUS.PHASE: 0 for SCAN, 1 for ACCUM (10_state.md R37). -/
def Phase.flag : Phase → Bool
  | .scan => false
  | .accum => true

/-- CTRL as a read gives it (46_host_registers.md R221). -/
def ctrlWord (s : State) : Word := flagWord s.decodeEn

/-- STATUS as a read gives it (46_host_registers.md R225, 10_state.md R37). -/
def statusWord (s : State) : Word :=
  flagWord s.mbValid ||| flagWord s.session <<< 1 ||| flagWord s.decodeEn <<< 2 |||
    flagWord s.phase.flag <<< 3 ||| BitVec.ofNat 32 s.carry.length <<< 8 |||
    BitVec.ofNat 32 s.win.length <<< 16

/-- THRESH as a read gives it (46_host_registers.md R227). -/
def threshWord (s : State) : Word := s.thresh.setWidth 32

/-- RESULT as a read gives it (46_host_registers.md R228, 10_state.md R39). -/
def resultWord (s : State) : Word :=
  if s.mbValid then 0x80000000#32 ||| s.mbPayload.setWidth 32 else 0

/-- LAST_OUTCOME as a read gives it (46_host_registers.md R230, 10_state.md R40). -/
def lastOutcomeWord (s : State) : Word :=
  s.lastCode.bits.setWidth 32 ||| s.lastCw.setWidth 32 <<< 16

end Sys2Proof.Machine
end

