-- ==== Sys2Proof/Machine/Operands.lean ====
section
/-! DEFINITION. The operand fields of a write's data word (30_encoding.md R73) and the value of a sample. -/

namespace Sys2Proof.Machine

/-- `wdata[15:0]` of a SAMPLE_IN write, the sample's 16 bits (10_state.md R34). -/
def sampleOf (wdata : Word) : Sample := wdata.extractLsb' 0 Config.sampleW

/-- The value of a sample in Z, `sext_16` (00_scope.md R11). -/
def sampleValue (x : Sample) : Int := x.toInt

/-- `wdata[0]` of a CTRL write, DECODE_EN (10_state.md R35). -/
def enableOf (wdata : Word) : Bool := wdata.getLsbD 0

/-- `wdata[0]` of a CMD write, START (10_state.md R36). -/
def startOf (wdata : Word) : Bool := wdata.getLsbD 0

/-- `wdata[1]` of a CMD write, STOP (10_state.md R36). -/
def stopOf (wdata : Word) : Bool := wdata.getLsbD 1

/-- `wdata[15:0]` of a THRESH write (10_state.md R38). -/
def threshOf (wdata : Word) : BitVec 16 := wdata.extractLsb' 0 16

end Sys2Proof.Machine
end

