-- ==== Sys2Proof/Machine/Ops.lean ====
section
/-! DEFINITION. The named operations over the state: responses, the session, the mailbox, the outcome record, the
reset input, and the one exception of the block, BusError. -/

namespace Sys2Proof.Machine

/-- The response a transaction gets (30_encoding.md R72). -/
def State.respond (s : State) (r : Response) : State := { s with resp := r }

/-- WIN <- [] and PHASE <- SCAN: the window in flight is gone (41_frame_detector.md R123, 46_host_registers.md
R220, R223, R224). -/
def State.emptyWindow (s : State) : State := { s with win := [], phase := .scan }

/-- StopSession() (46_host_registers.md R224). -/
def State.stopSession (s : State) : State :=
  { s.emptyWindow with session := false, carry := [] }

/-- StartSession() (46_host_registers.md R223): a stop of any active session, then the start. -/
def State.startSession (s : State) : State := { s.stopSession with session := true }

/-- Publish(p), the mailbox write of a successful decode (46_host_registers.md R229). -/
def State.publish (s : State) (p : BitVec 16) : State :=
  { s with mbPayload := p, mbValid := true }

/-- `takeIfValid()`'s effect on the mailbox (46_host_registers.md R228): MB_PAYLOAD keeps its value. -/
def State.clearMailbox (s : State) : State := { s with mbValid := false }

/-- Whether an outcome records its codeword (46_host_registers.md R233): assembly completed. -/
def OutcomeCode.hasCodeword : OutcomeCode → Bool
  | .ok | .header | .trailer | .parity => true
  | .none | .noSignal | .truncated | .bitAmbig => false

/-- RecordOutcome(code, cw) (46_host_registers.md R233). -/
def State.recordOutcome (s : State) (code : OutcomeCode) (cw : Codeword) : State :=
  { s with lastCode := code, lastCw := if code.hasCodeword then cw else 0 }

/-- The reset input (70_reset_and_hazards.md R280): every element of 10_state.md R22 takes its reset value. What
the environment still has to say and the open parameter are not the block's, and stay (DESIGN
CHOICE, log entry 6). -/
def State.assertReset (s : State) : State :=
  { State.reset with pending := s.pending, arithmetic := s.arithmetic }

/-- `raise BusError(off)` (60_exceptions.md R254): the error response and no other change. It is a fault of a
program that did not expect it (R254, 93_implementation_defined.md I5; DESIGN CHOICE, log
entry 3). -/
def raiseBusError (t : Txn) (s : State) : Host.Outcome State Fault Refusal :=
  if t.expectsError then .next (s.respond .error) else .fault (.busError t.request.off)

end Sys2Proof.Machine
end

