-- ==== Sys2Proof/Machine/HostRegisters.lean ====
section
/-! DEFINITION. The host register operations (46_host_registers.md R220 to R232). -/

namespace Sys2Proof.Machine

/-- WR_CTRL (46_host_registers.md R220): clearing DECODE_EN abandons the window in flight, and CARRY stays. -/
def execWrCtrl (wdata : Word) (s : State) : Host.Outcome State Fault Refusal :=
  if enableOf wdata then .next ({ s with decodeEn := true }.respond .okay)
  else .next ({ s.emptyWindow with decodeEn := false }.respond .okay)

/-- RD_CTRL (46_host_registers.md R221). -/
def execRdCtrl (s : State) : Host.Outcome State Fault Refusal :=
  .next (s.respond (.rdata (ctrlWord s)))

/-- WR_CMD (46_host_registers.md R222): START wins over STOP, and neither is no action. -/
def execWrCmd (wdata : Word) (s : State) : Host.Outcome State Fault Refusal :=
  if startOf wdata then .next (s.startSession.respond .okay)
  else if stopOf wdata then .next (s.stopSession.respond .okay)
  else .next (s.respond .okay)

/-- RD_STATUS (46_host_registers.md R225). -/
def execRdStatus (s : State) : Host.Outcome State Fault Refusal :=
  .next (s.respond (.rdata (statusWord s)))

/-- WR_THRESH (46_host_registers.md R226). -/
def execWrThresh (wdata : Word) (s : State) : Host.Outcome State Fault Refusal :=
  .next ({ s with thresh := threshOf wdata }.respond .okay)

/-- RD_THRESH (46_host_registers.md R227). -/
def execRdThresh (s : State) : Host.Outcome State Fault Refusal :=
  .next (s.respond (.rdata (threshWord s)))

/-- RD_RESULT (46_host_registers.md R228): take the result if one is pending, atomically. -/
def execRdResult (s : State) : Host.Outcome State Fault Refusal :=
  .next (s.clearMailbox.respond (.rdata (resultWord s)))

/-- RD_LAST (46_host_registers.md R230). -/
def execRdLast (s : State) : Host.Outcome State Fault Refusal :=
  .next (s.respond (.rdata (lastOutcomeWord s)))

/-- RD_VERSION (46_host_registers.md R231): the open parameter VERSION_ID. -/
def execRdVersion (s : State) : Host.Outcome State Fault Refusal :=
  .next (s.respond (.rdata Config.versionId))

/-- RD_BUILD_DATE (46_host_registers.md R232): the open parameter BUILD_DATE. -/
def execRdBuildDate (s : State) : Host.Outcome State Fault Refusal :=
  .next (s.respond (.rdata Config.buildDate))

end Sys2Proof.Machine
end

