-- ==== Sys2Proof/Machine/Agc.lean ====
section
/-! DEFINITION. The AGC normalizer over exact rationals (42_agc.md R140 to R145). Every value of the stage is
rational, so it is exact as R142 asks. -/

namespace Sys2Proof.Machine

/-- `neg(v)`: a zero counts with the non-negative samples (42_agc.md R140). -/
def agcNeg (v : ℚ) : Bool := decide (v < 0)

/-- The segments of a window, in order: a new one starts at each zero crossing (42_agc.md R140, R141). -/
def agcSegments : List ℚ → List (List ℚ)
  | [] => []
  | x :: xs =>
    match agcSegments xs with
    | (y :: seg) :: rest =>
      if agcNeg x = agcNeg y then (x :: y :: seg) :: rest else [x] :: (y :: seg) :: rest
    | _ => [[x]]

/-- `upPeak`: the maximum of 0 and the segment's samples (42_agc.md R141). -/
def upPeak : List ℚ → ℚ
  | [] => 0
  | x :: xs => if upPeak xs < x then x else upPeak xs

/-- `downPeak`: the minimum of 0 and the segment's samples (42_agc.md R141). -/
def downPeak : List ℚ → ℚ
  | [] => 0
  | x :: xs => if x < downPeak xs then x else downPeak xs

/-- `max(|up|, |down|)` (42_agc.md R142), with `up >= 0 >= down`. -/
def segmentPeak (seg : List ℚ) : ℚ :=
  if -downPeak seg ≤ upPeak seg then upPeak seg else -downPeak seg

/-- A segment that a crossing closes: rescaled by `AGC_FULL / M` when its span exceeds the threshold, else
left alone (42_agc.md R142). -/
def agcCloseSegment (t : ℚ) (seg : List ℚ) : List ℚ :=
  if t < upPeak seg - downPeak seg then
    seg.map (fun v => v * (Config.agcFull : ℚ) / segmentPeak seg)
  else seg

/-- Every segment but the last is closed by a crossing; the last is never rescaled (42_agc.md R143). -/
def agcJoin (t : ℚ) : List (List ℚ) → List ℚ
  | [] => []
  | [last] => last
  | seg :: next :: rest => agcCloseSegment t seg ++ agcJoin t (next :: rest)

/-- Agc on a sequence of reals (42_agc.md R142, R145 applies it to its own output). -/
def agcReal (w : List ℚ) (t : ℚ) : List ℚ := agcJoin t (agcSegments w)

/-- Agc(W, T) (42_agc.md R142). -/
def agc (w : List Sample) (t : BitVec 16) : List ℚ :=
  agcReal (w.map (fun x => (sampleValue x : ℚ))) (t.toNat : ℚ)

end Sys2Proof.Machine
end

