-- ==== Sys2Proof/Machine/Correlator.lean ====
section
/-! DEFINITION. The dual-tone correlator (43_correlator.md R160 to R165) in fixed point: the profiles of the
concrete arithmetic Numerics.fixedPoint. The exact real profile is Sys2Proof.Machine.Reference.energy. -/

namespace Sys2Proof.Machine

/-- One, in the fixed point of this file: 2^64. -/
def fixOne : Nat := 18446744073709551616

/-- The fixed-point value at or just below a rational. -/
def toFix (q : ℚ) : Int := (q.num * (fixOne : Int)) / (q.den : Int)

/-- `pi` to 20 decimals, from below (DESIGN CHOICE, log entry 5). -/
def piApprox : ℚ := 314159265358979323846 / 100000000000000000000

/-- `THETA_f = 2*pi*f/FS` (00_scope.md R8). -/
def thetaApprox (f : Tone) : ℚ := 2 * piApprox * (Config.toneHz f : ℚ) / (Config.fs : ℚ)

/-- The first `n` terms of the power series of `cos`. -/
def cosSeries (x : ℚ) : Nat → ℚ
  | 0 => 0
  | n + 1 => cosSeries x n + (-1) ^ n * x ^ (2 * n) / ((2 * n).factorial : ℚ)

/-- The first `n` terms of the power series of `sin`. -/
def sinSeries (x : ℚ) : Nat → ℚ
  | 0 => 0
  | n + 1 => sinSeries x n + (-1) ^ n * x ^ (2 * n + 1) / ((2 * n + 1).factorial : ℚ)

/-- A point of the unit circle in fixed point: `(cos, sin)`. -/
abbrev Phasor := Int × Int

/-- The phasor of one sample's phase step, `(cos THETA_f, sin THETA_f)`. -/
def phasorStep (f : Tone) : Phasor :=
  (toFix (cosSeries (thetaApprox f) 20), toFix (sinSeries (thetaApprox f) 20))

/-- The phase advanced by one step (43_correlator.md R160: `phi(n+1) = phi(n) + THETA_f`). -/
def rotate (d z : Phasor) : Phasor :=
  ((z.1 * d.1 - z.2 * d.2) / (fixOne : Int), (z.2 * d.1 + z.1 * d.2) / (fixOne : Int))

/-- The correlation products `(I_f(n), Q_f(n))` from phasor `z` on (43_correlator.md R161), of scale 2^128. -/
def products (d : Phasor) : Phasor → List ℚ → List (Int × Int)
  | _, [] => []
  | z, a :: as => (toFix a * z.1, toFix a * z.2) :: products d (rotate d z) as

/-- The largest natural number whose square is at most `n`, by Newton's iteration from `x`, which lies at or
above it. -/
def isqrtFrom (n : Nat) : Nat → Nat → Nat
  | 0, x => x
  | k + 1, x => if (x + n / x) / 2 < x then isqrtFrom n k ((x + n / x) / 2) else x

/-- The integer square root. -/
def isqrt (n : Nat) : Nat := isqrtFrom n (Nat.log2 n + 2) (2 ^ (Nat.log2 n / 2 + 1))

/-- The magnitude of a block's sums, `sqrt(c^2 + q^2)` (43_correlator.md R163). -/
def magnitude (block : List (Int × Int)) : Nat :=
  isqrt ((block.map Prod.fst).sum.natAbs ^ 2 + (block.map Prod.snd).sum.natAbs ^ 2)

/-- The first pass: at each index the magnitude of the trailing block of `INT_N` products, those before the
window contributing 0 (43_correlator.md R162, R163). `prev` holds the products before, newest first. The
division by `INT_N` is left to the scale. -/
def firstPass : List (Int × Int) → List (Int × Int) → List Nat
  | _, [] => []
  | prev, x :: xs =>
    magnitude ((x :: prev).take Config.intN) :: firstPass (x :: prev) xs

/-- The second pass: at each index the sum of it and the next `SMOOTH_N - 1` values, those after the window
contributing 0 (43_correlator.md R164). The division by `SMOOTH_N` is left to the scale. -/
def secondPass : List Nat → List Nat
  | [] => []
  | x :: xs => ((x :: xs).take Config.smoothN).sum :: secondPass xs

/-- An energy of 1 in the scale of `energy`. -/
def energyOne : Nat := fixOne ^ 2 * Config.intN * Config.smoothN

/-- Energy(A, f) in the scale of `energyOne`, phase 0 at index 0 (43_correlator.md R160, R165). -/
def energy (a : List ℚ) (f : Tone) : List Nat :=
  secondPass (firstPass [] (products (phasorStep f) ((fixOne : Int), 0) a))

end Sys2Proof.Machine
end

