-- ==== Sys2Proof/Machine/Reference.lean ====
section
/-! DEFINITION. The exact real reference of the correlator (43_correlator.md R160 to R168). Every arithmetic a
machine can have is held against it (Machine/Numerics.lean). -/

namespace Sys2Proof.Machine.Reference

open Finset

/-- `THETA_f = 2*pi*f/FS` (00_scope.md R8). -/
noncomputable def theta (f : Tone) : ℝ := 2 * Real.pi * (Config.toneHz f : ℝ) / (Config.fs : ℝ)

/-- The phase at window index `n`, from the starting phase `phi0` (43_correlator.md R160, R167). -/
noncomputable def phase (f : Tone) (phi0 : ℝ) (n : ℕ) : ℝ := (n : ℝ) * theta f + phi0

/-- `A[n]`, 0 outside the window (43_correlator.md R162, R164). -/
noncomputable def at_ (a : List ℚ) (n : ℕ) : ℝ := ((a.getD n 0 : ℚ) : ℝ)

/-- `c_f(i)`, the in-phase mean of the trailing block (43_correlator.md R161, R162). -/
noncomputable def inPhase (a : List ℚ) (f : Tone) (phi0 : ℝ) (i : ℕ) : ℝ :=
  (∑ k ∈ Icc (i - (Config.intN - 1)) i, at_ a k * Real.cos (phase f phi0 k)) / (Config.intN : ℝ)

/-- `q_f(i)`, the quadrature mean of the trailing block (43_correlator.md R161, R162). -/
noncomputable def quadrature (a : List ℚ) (f : Tone) (phi0 : ℝ) (i : ℕ) : ℝ :=
  (∑ k ∈ Icc (i - (Config.intN - 1)) i, at_ a k * Real.sin (phase f phi0 k)) / (Config.intN : ℝ)

/-- `E1_f(i)` from the starting phase `phi0` (43_correlator.md R163, R167). -/
noncomputable def blockMagnitude (a : List ℚ) (f : Tone) (phi0 : ℝ) (i : ℕ) : ℝ :=
  Real.sqrt (inPhase a f phi0 i ^ 2 + quadrature a f phi0 i ^ 2)

/-- `E_f(i)`, phase 0 at index 0 (43_correlator.md R160, R164, R165). -/
noncomputable def energy (a : List ℚ) (f : Tone) (i : ℕ) : ℝ :=
  (∑ k ∈ Icc i (min (a.length - 1) (i + (Config.smoothN - 1))), blockMagnitude a f 0 k) /
    (Config.smoothN : ℝ)

/-- The exact energy at index `i` of a window's AGC output (41_frame_detector.md R125). -/
noncomputable def windowEnergy (w : List Sample) (t : BitVec 16) (f : Tone) (i : ℕ) : ℝ :=
  energy (agc w t) f i

end Sys2Proof.Machine.Reference
end

