-- ==== Sys2Proof/Machine/Numerics.lean ====
section
/-! DEFINITION. NUMERICS, the finite-precision arithmetic of the AGC and the correlator (00_scope.md R9,
43_correlator.md R168): what an arithmetic is, what its error bound says, the open parameter, the exact
reference instance and one concrete instance. -/

namespace Sys2Proof.Machine

/-- An arithmetic (43_correlator.md R168): Agc's output values and Energy as configuration functions over
number formats of its own, and the two comparisons Classify makes. -/
structure Numerics where
  /-- the format of an AGC output value -/
  Amplitude : Type
  /-- the format of an energy -/
  Energy : Type
  /-- Agc(W, T) (42_agc.md R142) -/
  agc : List Sample → BitVec 16 → List Amplitude
  /-- Energy(A, f) (43_correlator.md R165) -/
  energy : List Amplitude → Tone → List Energy
  /-- `EA[i] + EB[i] > COH_THRESH` (44_bit_assembler.md R180) -/
  coherent : Energy → Energy → Bool
  /-- `EA[i] > EB[i]`, and with the operands exchanged `EB[i] > EA[i]` (44_bit_assembler.md R180) -/
  above : Energy → Energy → Bool

/-- What 43_correlator.md R168 asks of an arithmetic with error bound `bound`: each stage is aligned with the
window, and a comparison of Classify whose exact operands are at least the bound apart has the exact result.
Closer operands are a draw, so nothing is said of them, and an arithmetic without a bound makes every
comparison a draw. -/
structure Numerics.Lawful (N : Numerics) (bound : Option ℝ) : Prop where
  agc_length : ∀ w t, (N.agc w t).length = w.length
  energy_length : ∀ a f, (N.energy a f).length = a.length
  coherent_iff : ∀ b ∈ bound, ∀ (w : List Sample) (t : BitVec 16) (i : Nat) (x y : N.Energy),
    w.length = Config.winLen →
    (N.energy (N.agc w t) .a)[i]? = some x → (N.energy (N.agc w t) .b)[i]? = some y →
    b ≤ |Reference.windowEnergy w t .a i + Reference.windowEnergy w t .b i - Config.cohThresh| →
    (N.coherent x y = true ↔
      Config.cohThresh < Reference.windowEnergy w t .a i + Reference.windowEnergy w t .b i)
  above_iff : ∀ b ∈ bound, ∀ (w : List Sample) (t : BitVec 16) (i : Nat) (x y : N.Energy),
    w.length = Config.winLen →
    (N.energy (N.agc w t) .a)[i]? = some x → (N.energy (N.agc w t) .b)[i]? = some y →
    b ≤ |Reference.windowEnergy w t .a i - Reference.windowEnergy w t .b i| →
    (N.above x y = true ↔ Reference.windowEnergy w t .b i < Reference.windowEnergy w t .a i) ∧
    (N.above y x = true ↔ Reference.windowEnergy w t .a i < Reference.windowEnergy w t .b i)

/-- An arithmetic of which nothing but its shape is known: it shows that there is one. -/
def Numerics.unbounded : Numerics where
  Amplitude := Unit
  Energy := Unit
  agc w _ := w.map (fun _ => ())
  energy a _ := a
  coherent _ _ := false
  above _ _ := false

/-- An implementation's arithmetic with its error bound. The defaults only show that the type is inhabited. -/
structure OpenNumerics where
  arithmetic : Numerics := Numerics.unbounded
  /-- NUMERICS' error bound; `none` where the implementation has none -/
  bound : Option ℝ := none
  lawful : arithmetic.Lawful bound := by
    exact ⟨by simp [Numerics.unbounded], by simp [Numerics.unbounded], by simp, by simp⟩
  deriving Inhabited

end Sys2Proof.Machine

namespace Sys2Proof

/-- `NUMERICS`, an open parameter (00_scope.md R9, 93_implementation_defined.md I3): A FREE VALUE, of which
nothing is known but what 43_correlator.md R168 asks. DESIGN CHOICE, log entry 5. -/
opaque Config.numerics : Machine.OpenNumerics

end Sys2Proof

namespace Sys2Proof.Machine

/-- The reference instance of NUMERICS: exact reals (43_correlator.md R168). It has the error bound 0, so it has
no draws; it cannot be evaluated. -/
noncomputable def Numerics.reference : Numerics where
  Amplitude := ℚ
  Energy := ℝ
  agc := Machine.agc
  energy a f := (List.range a.length).map (Reference.energy a f)
  coherent x y := open Classical in decide ((Config.cohThresh : ℝ) < x + y)
  above x y := open Classical in decide (y < x)

/-- A concrete arithmetic, in which a run can be evaluated: the exact AGC, and the profiles of
Machine/Correlator.lean (DESIGN CHOICE, log entry 5). -/
def Numerics.fixedPoint : Numerics where
  Amplitude := ℚ
  Energy := Nat
  agc := Machine.agc
  energy := Machine.energy
  coherent x y := decide (Config.cohThresh * energyOne < x + y)
  above x y := decide (y < x)

end Sys2Proof.Machine
end

