-- ==== Sys2Proof/Machine/BitAssembler.lean ====
section
/-! DEFINITION. Classify, Assemble and Strip (44_bit_assembler.md R180 to R188). -/

namespace Sys2Proof.Machine

/-- The tone classification of one window index (44_bit_assembler.md R180). -/
inductive ToneClass where
  | toneA
  | toneB
  | ambiguous
  deriving DecidableEq, Repr

/-- Classify at one index, in the arithmetic `N` (44_bit_assembler.md R180). -/
def classifyAt (N : Numerics) (ea eb : N.Energy) : ToneClass :=
  if N.coherent ea eb then
    if N.above ea eb then .toneA
    else if N.above eb ea then .toneB
    else .ambiguous
  else .ambiguous

/-- Classify(EA, EB) (44_bit_assembler.md R180). -/
def classify (N : Numerics) (ea eb : List N.Energy) : List ToneClass :=
  List.zipWith (classifyAt N) ea eb

/-- The classification of a window: Agc, the two profiles and Classify (41_frame_detector.md R125). -/
def classifyWindow (N : Numerics) (w : List Sample) (t : BitVec 16) : List ToneClass :=
  classify N (N.energy (N.agc w t) .a) (N.energy (N.agc w t) .b)

/-- The bit-stream origin: the first index that is not AMBIGUOUS, the length where there is none
(44_bit_assembler.md R183). -/
def bitOrigin (c : List ToneClass) : Nat := c.findIdx (fun x => decide (x ≠ .ambiguous))

/-- The majority vote of one interval (44_bit_assembler.md R184, R185); `none` where neither count exceeds
half. -/
def voteBit (interval : List ToneClass) : Option Bool :=
  if interval.count .toneA ≤ Config.half ∧ interval.count .toneB ≤ Config.half then none
  else some (decide (interval.count .toneA < interval.count .toneB))

/-- The votes of `n` consecutive intervals, earliest first; `none` at the first that has none
(44_bit_assembler.md R181, R185). -/
def voteBits : Nat → List ToneClass → Option (List Bool)
  | 0, _ => some []
  | n + 1, c =>
    match voteBit (c.take Config.bitW), voteBits n (c.drop Config.bitW) with
    | some b, some bs => some (b :: bs)
    | _, _ => none

/-- The number whose bits are listed, least significant first (44_bit_assembler.md R186). -/
def bitsValue : List Bool → Nat
  | [] => 0
  | b :: bs => (if b then 1 else 0) + 2 * bitsValue bs

/-- Validate the sentinels (44_bit_assembler.md R187), HEADER before TRAILER. A failure carries its code and
the codeword. -/
def checkSentinels (cw : Codeword) : Except (OutcomeCode × Codeword) (Codeword) :=
  if cw.getLsbD 0 then .error (.header, cw)
  else if cw.getLsbD 14 = false then .error (.trailer, cw)
  else .ok cw

/-- Assemble(C) (44_bit_assembler.md R181): the first failure in the order of 60_exceptions.md R255. -/
def assemble (c : List ToneClass) : Except (OutcomeCode × Codeword) (Codeword) :=
  if c.all (fun x => decide (x = .ambiguous)) then .error (.noSignal, 0)
  else if Config.maxOrigin < bitOrigin c then .error (.truncated, 0)
  else
    match voteBits Config.nBits (c.drop (bitOrigin c)) with
    | none => .error (.bitAmbig, 0)
    | some bits => checkSentinels (BitVec.ofNat Config.nBits (bitsValue bits))

/-- Strip(cw) `= (cw AND 0x3FFF) >> 1` (44_bit_assembler.md R188). -/
def strip (cw : Codeword) : Candidate := ((cw &&& 0x3FFF) >>> 1).setWidth Config.candW

end Sys2Proof.Machine
end

