-- ==== Sys2Proof/Machine/EccDecoder.lean ====
section
/-! DEFINITION. The parity-check decoder (45_ecc_decoder.md R200 to R203) and the test-only encoder of R206, which
no operation calls. -/

namespace Sys2Proof.Machine

/-- `popcount(v)` (00_scope.md R11). -/
def popcount (v : BitVec 16) : Nat := ((List.range 16).filter (fun i => v.getLsbD i)).length

/-- One parity check passes: the masked popcount is odd (45_ecc_decoder.md R200). -/
def parityOdd (cand : Candidate) (mask : BitVec 16) : Bool :=
  popcount (cand.setWidth 16 &&& mask) % 2 == 1

/-- All four parity checks pass (45_ecc_decoder.md R200). -/
def parityPasses (cand : Candidate) : Bool := Config.masks.all (parityOdd cand)

/-- The candidate bits that carry data, lowest first: those whose 1-indexed position is not in `PARITY_POS`
(45_ecc_decoder.md R202). -/
def dataBits : List Nat := (List.range Config.candW).filter (fun b => decide (b + 1 ∉ Config.parityPos))

/-- The data bits in their order, the redundancy bits dropped (45_ecc_decoder.md R202). -/
def payloadOf (cand : Candidate) : BitVec 16 :=
  BitVec.ofNat 16 (bitsValue (dataBits.map (fun b => cand.getLsbD b)))

/-- EccDecode(cand) (45_ecc_decoder.md R202): the payload, or FAIL_WORD (R201). No bit is corrected (R203). -/
def eccDecode (cand : Candidate) : BitVec 16 :=
  if parityPasses cand then payloadOf cand else Config.failWord

/-- The test-only encoder of 45_ecc_decoder.md R206: the one passing candidate of payload `d`. -/
def encodeCand (d : BitVec Config.payloadW) : Candidate :=
  let b := fun i => d.getLsbD i
  BitVec.ofNat Config.candW (bitsValue
    [ !(b 0 ^^ b 1 ^^ b 3 ^^ b 4 ^^ b 6 ^^ b 8),
      !(b 0 ^^ b 2 ^^ b 3 ^^ b 5 ^^ b 6),
      b 0,
      !(b 1 ^^ b 2 ^^ b 3 ^^ b 7 ^^ b 8),
      b 1, b 2, b 3,
      !(b 4 ^^ b 5 ^^ b 6 ^^ b 7 ^^ b 8),
      b 4, b 5, b 6, b 7, b 8 ])

/-- The codeword of payload `d`, `0x4000 | (cand << 1)` (45_ecc_decoder.md R206). -/
def encodeCodeword (d : BitVec Config.payloadW) : Codeword := 0x4000#15 ||| (encodeCand d).setWidth Config.nBits <<< 1

end Sys2Proof.Machine
end

