-- ==== Sys2Proof/Machine/FrameDetector.lean ====
section
/-! DEFINITION. The start-of-frame detector, window accumulation and frame dispatch (41_frame_detector.md R120 to
R125). -/

namespace Sys2Proof.Machine

/-- What FrameDecode returns (41_frame_detector.md R125): an outcome code, a codeword value and, on OK, the
payload. -/
structure FrameResult where
  code : OutcomeCode
  cw : Codeword
  payload : Option (BitVec 16)
  deriving DecidableEq, Repr

/-- The end of FrameDecode (41_frame_detector.md R125): a failure of Assemble is returned as it is, a codeword
goes through Strip and EccDecode, and FAIL_WORD is the failure PARITY (45_ecc_decoder.md R201). -/
def finishFrame : Except (OutcomeCode × Codeword) (Codeword) → FrameResult
  | .error (code, cw) => ⟨code, cw, none⟩
  | .ok cw =>
    if eccDecode (strip cw) = Config.failWord then ⟨.parity, cw, none⟩
    else ⟨.ok, cw, some (eccDecode (strip cw))⟩

/-- The stages after Classify: Assemble, Strip, EccDecode (41_frame_detector.md R125). -/
def decodeClasses (c : List ToneClass) : FrameResult := finishFrame (assemble c)

/-- FrameDecode(W, T) (41_frame_detector.md R125), in the arithmetic `N` (43_correlator.md R168). -/
def frameDecode (N : Numerics) (w : List Sample) (t : BitVec 16) : FrameResult :=
  decodeClasses (classifyWindow N w t)

/-- The result of a frame decode, written to the state: RecordOutcome always, Publish on OK only
(41_frame_detector.md R123). -/
def State.writeResult (s : State) (r : FrameResult) : State :=
  match r.payload with
  | some p => (s.recordOutcome r.code r.cw).publish p
  | none => s.recordOutcome r.code r.cw

/-- The machine's NUMERICS (00_scope.md R9; log entry 4). -/
def State.numerics (s : State) : Numerics :=
  match s.arithmetic with
  | .parameter => Config.numerics.arithmetic
  | .fixedPoint => Numerics.fixedPoint

/-- FrameComplete() (41_frame_detector.md R123). -/
def State.frameComplete (s : State) : State :=
  (s.writeResult (frameDecode s.numerics s.win s.thresh)).emptyWindow

/-- Whether a sample exceeds the threshold: strict, and the absolute value in Z (41_frame_detector.md R120). -/
def isLoud (t : BitVec 16) (x : Sample) : Bool := decide (t.toNat < (sampleValue x).natAbs)

/-- The probe of `x`: `x` and the samples that follow it in CARRY (41_frame_detector.md R120). -/
def probeOf (x : Sample) (carry : List Sample) : List Sample := x :: carry.take (Config.probeN - 1)

/-- The start-of-frame condition (41_frame_detector.md R120). -/
def probeStarts (t : BitVec 16) (probe : List Sample) : Bool :=
  decide (Config.probeMin ≤ (probe.filter (isLoud t)).length)

/-- FrameComplete where the window has WIN_LEN samples (41_frame_detector.md R120). -/
def State.completeIfFull (s : State) : State :=
  if s.win.length = Config.winLen then s.frameComplete else s

/-- Handoff(x) (41_frame_detector.md R120): discard, probe or accumulate one handed-off sample. -/
def State.handoff (s : State) (x : Sample) : State :=
  if s.decodeEn = false then s
  else
    match s.phase with
    | .scan =>
      if probeStarts s.thresh (probeOf x s.carry) then
        { s with phase := .accum, win := [x] }.completeIfFull
      else s
    | .accum => { s with win := s.win ++ [x] }.completeIfFull

end Sys2Proof.Machine
end

