-- ==== Sys2Proof/Machine/SampleInput.lean ====
section
/-! DEFINITION. PUSH and the carry buffer (40_sample_input.md R100 to R104). -/

namespace Sys2Proof.Machine

/-- One accepted sample: append it to CARRY, and hand off the oldest once CARRY holds more than CARRY_LEN
(40_sample_input.md R100). -/
def State.acceptSample (s : State) (x : Sample) : State :=
  match s.carry ++ [x] with
  | [] => s
  | oldest :: kept =>
    if Config.carryLen < (oldest :: kept).length then { s with carry := kept }.handoff oldest
    else { s with carry := oldest :: kept }

/-- PUSH's effect on the block (40_sample_input.md R100): nothing outside a session. -/
def State.pushSample (s : State) (x : Sample) : State :=
  if s.session then s.acceptSample x else s

/-- PUSH (40_sample_input.md R100). -/
def execPush (wdata : Word) (s : State) : Host.Outcome State Fault Refusal :=
  .next ((s.pushSample (sampleOf wdata)).respond .okay)

end Sys2Proof.Machine
end

