-- ==== Sys2Proof/Machine/Dispatch.lean ====
section
/-! DEFINITION. exec: one arm per operation of 30_encoding.md R74. -/

namespace Sys2Proof.Machine

def exec (i : Instr) (s : State) : Host.Outcome State Fault Refusal :=
  match i with
  | .push w => Sys2Proof.Machine.execPush w s
  | .wrCtrl w => Sys2Proof.Machine.execWrCtrl w s
  | .rdCtrl => Sys2Proof.Machine.execRdCtrl s
  | .wrCmd w => Sys2Proof.Machine.execWrCmd w s
  | .rdStatus => Sys2Proof.Machine.execRdStatus s
  | .wrThresh w => Sys2Proof.Machine.execWrThresh w s
  | .rdThresh => Sys2Proof.Machine.execRdThresh s
  | .rdResult => Sys2Proof.Machine.execRdResult s
  | .rdLast => Sys2Proof.Machine.execRdLast s
  | .rdVersion => Sys2Proof.Machine.execRdVersion s
  | .rdBuildDate => Sys2Proof.Machine.execRdBuildDate s

end Sys2Proof.Machine
end

