-- ==== Sys2Proof/Machine/Step.lean ====
section
/-! DEFINITION. One step: the next port event, in the one total order of 20_memory.md R59. -/

namespace Sys2Proof.Machine

/-- One transaction (30_encoding.md R72, 60_exceptions.md R256): the selector is checked before anything else. -/
def transact (t : Txn) (s : State) : Host.Outcome State Fault Refusal :=
  match decode t.request with
  | .ok i => exec i s
  | .error _ => raiseBusError t s

/-- One step takes the oldest pending event off the port. With none the block takes no action
(70_reset_and_hazards.md R281). -/
def step (s : State) : Host.Outcome State Fault Refusal :=
  match s.pending with
  | [] => .next s
  | .reset :: rest => .next { s with pending := rest }.assertReset
  | .txn t :: rest => transact t { s with pending := rest }

/-- `s` with the table word's request as the next event at the port: what step runs first (DESIGN CHOICE, log
entry 1). -/
def State.withFetchWord (s : State) (_nbits w : Nat) : State :=
  { s with pending := .txn ⟨.host, requestOfTableWord w, false⟩ :: s.pending }

end Sys2Proof.Machine
end

