-- ==== Sys2Proof/Machine/Program.lean ====
section
/-! DEFINITION. The pseudo-operations of the textual form (30_encoding.md R78) and a sequence of operations as one
run. step calls none of it. -/

namespace Sys2Proof.Machine

/-- The data word of `PUSH v`, `zext_32(v mod 2^16)` (30_encoding.md R77). -/
def pushWord (x : Sample) : Word := x.setWidth 32

/-- The pseudo-operations (30_encoding.md R78). -/
inductive Pseudo where
  | start
  | stop
  | enable
  | disable
  | setTh (t : BitVec 16)
  | poll
  | take
  | pushN (v : Sample) (n : Nat)
  /-- PUSHSEQ, and SUBMIT of a block -/
  | pushSeq (vs : List Sample)
  | flush
  deriving DecidableEq, Repr

/-- Their expansions (30_encoding.md R78). -/
def Pseudo.expand : Pseudo → List Instr
  | .start => [.wrCmd 1]
  | .stop => [.wrCmd 2]
  | .enable => [.wrCtrl 1]
  | .disable => [.wrCtrl 0]
  | .setTh t => [.wrThresh (t.setWidth 32)]
  | .poll => [.rdStatus]
  | .take => [.rdResult]
  | .pushN v n => List.replicate n (.push (pushWord v))
  | .pushSeq vs => vs.map (fun v => .push (pushWord v))
  | .flush => List.replicate 32 (.push (pushWord 0))

/-- Operations in order, each on the state the one before left (20_memory.md R59), stopping at the first
that gives no next state. -/
def execAll : List Instr → State → Host.Outcome State Fault Refusal
  | [], s => .next s
  | i :: is, s =>
    match exec i s with
    | .next t => execAll is t
    | .fault r => .fault r
    | .refused r => .refused r

/-- An operation as a transaction of an agent, for State.pending. -/
def instrEvent (agent : Agent) (i : Instr) : PortEvent := .txn ⟨agent, encode i, false⟩

end Sys2Proof.Machine
end

