-- ==== Sys2Proof/Safety.lean ====
section
/-! DEFINITION. What holds between any two transactions (10_state.md R44), in the terms statements use. -/

namespace Sys2Proof.Safety

open Sys2Proof.Machine

/-- 10_state.md R44, whole: it holds between any two transactions. `LAST_CODE <= 7` is said of its number. -/
structure Inv (s : State) : Prop where
  carry_le : s.carry.length ≤ 32
  idle_carry : s.session = false → s.carry = []
  idle_scan : s.session = false → s.phase = .scan
  disabled_scan : s.decodeEn = false → s.phase = .scan
  scan_iff : s.phase = .scan ↔ s.win = []
  win_le : s.win.length ≤ 1101
  payload_le : s.mbValid = false ∨ s.mbPayload.toNat ≤ 511
  code_le : s.lastCode.bits.toNat ≤ 7

/-- The same elements of the block in two states: all of 10_state.md R22, none of the model's own fields. -/
structure SameBlock (s t : State) : Prop where
  session : t.session = s.session
  decodeEn : t.decodeEn = s.decodeEn
  thresh : t.thresh = s.thresh
  carry : t.carry = s.carry
  phase : t.phase = s.phase
  win : t.win = s.win
  mbValid : t.mbValid = s.mbValid
  mbPayload : t.mbPayload = s.mbPayload
  lastCode : t.lastCode = s.lastCode
  lastCw : t.lastCw = s.lastCw

/-- The same result registers: the mailbox and the last outcome. -/
structure SameResult (s t : State) : Prop where
  mbValid : t.mbValid = s.mbValid
  mbPayload : t.mbPayload = s.mbPayload
  lastCode : t.lastCode = s.lastCode
  lastCw : t.lastCw = s.lastCw

/-- The class of an index by the exact rule, with no draw (44_bit_assembler.md R180). -/
noncomputable def exactClass (ea eb : ℝ) : ToneClass :=
  open Classical in
  if 4096 < ea + eb then if eb < ea then .toneA else if ea < eb then .toneB else .ambiguous
  else .ambiguous

/-- No comparison that Classify makes at index `i` of the window is a draw under the error bound `b`: the exact
operands are at least `b` apart (43_correlator.md R168, 44_bit_assembler.md R180). -/
structure NoDraw (w : List Sample) (t : BitVec 16) (b : ℝ) (i : Nat) : Prop where
  coherence : b ≤ |Reference.windowEnergy w t .a i + Reference.windowEnergy w t .b i - 4096|
  dominance : 4096 < Reference.windowEnergy w t .a i + Reference.windowEnergy w t .b i →
    b ≤ |Reference.windowEnergy w t .a i - Reference.windowEnergy w t .b i|

/-- Interval `k` of a classification: the 54 indices from `o + 54 k` on, `o` the bit-stream origin
(44_bit_assembler.md R184). -/
abbrev interval (c : List ToneClass) (k : Nat) : List ToneClass :=
  (c.drop (bitOrigin c + Config.bitW * k)).take Config.bitW

/-- The tone that stands for a bit (43_correlator.md R166). -/
abbrev toneOf (b : Bool) : ToneClass := if b then .toneB else .toneA

/-- The classification carries the codeword: its origin leaves room for the 15 intervals, and at least 28 of
the 54 indices of interval `k` have the tone of codeword bit `k` (44_bit_assembler.md R183, R185). -/
abbrev Carries (c : List ToneClass) (cw : BitVec 15) : Prop :=
  bitOrigin c ≤ 292 ∧ ∀ k < 15, 28 ≤ (interval c k).count (toneOf (cw.getLsbD k))

/-- The number of samples of a probe that exceed the threshold in Z (41_frame_detector.md R120). -/
abbrev loudCount (t : BitVec 16) (probe : List Sample) : Nat :=
  (probe.filter (fun v => t.toNat < v.toInt.natAbs)).length

/-- The last `n` elements of a list. -/
abbrev lastOf {α : Type} (n : Nat) (l : List α) : List α := l.drop (l.length - n)

/-- The operations that submit a block of samples, one PUSH each (40_sample_input.md R102). -/
abbrev submit (ws : List Word) : List Instr := ws.map .push

/-- The block is about to complete a window: a session with decoding enabled, 1101 samples accumulated, and a
full carry whose oldest sample is `o` (41_frame_detector.md R123). -/
structure AboutToComplete (s : State) (o : Sample) (k : List Sample) : Prop where
  session : s.session = true
  decodeEn : s.decodeEn = true
  phase : s.phase = .accum
  win : s.win.length = 1101
  carry : s.carry = o :: k
  kept : k.length = 31

end Sys2Proof.Safety
end

