-- ==== Sys2Proof/Certificates/Slice0/Obligations.lean ====
section
/-! DEFINITION. The statements for the provers. -/

open Sys2Proof Sys2Proof.Machine Sys2Proof.Safety

/-! ### The port: decoding, steps, responses, reset -/

/-- R71, R74: decoding gives back every operation, and an operation read from a request is the one whose
request it is, the data word of a read left aside. -/
def Obligations.DecodeInvertsEncode : Prop :=
  (∀ i : Instr, decode (encode i) = .ok i) ∧
  (∀ (r : Request) (i : Instr), decode r = .ok i →
    (encode i).sel = r.sel ∧ (r.isWrite = true → encode i = r))

/-- R75: the illegal selectors are exactly those the rule lists, and 11 of the 512 are legal. -/
def Obligations.IllegalSelectorsAreThoseListed : Prop :=
  (∀ r : Request, (∃ e, decode r = .error e) ↔
    (r.off.toNat % 4 ≠ 0 ∨ 0x24 ≤ r.off.toNat ∨
      (r.isWrite = false ∧ r.off.toNat ∈ [0x00, 0x08]) ∨
      (r.isWrite = true ∧ r.off.toNat ∈ [0x0C, 0x14, 0x18, 0x1C, 0x20]))) ∧
  ((List.range 512).filter (fun n => (decodeTableWord 16 n).isSome)).length = 11

/-- R74: the selector words of the table, written out. -/
def Obligations.SelectorWordsDecode : Prop :=
  decode ⟨0b100000000#9, 0x00008000#32⟩ = .ok (.push 0x00008000#32) ∧
  decode ⟨0b100000100#9, 1#32⟩ = .ok (.wrCtrl 1#32) ∧
  decode ⟨0b000000100#9, 0⟩ = .ok .rdCtrl ∧
  decode ⟨0b100001000#9, 3#32⟩ = .ok (.wrCmd 3#32) ∧
  decode ⟨0b000001100#9, 0⟩ = .ok .rdStatus ∧
  decode ⟨0b100010000#9, 512#32⟩ = .ok (.wrThresh 512#32) ∧
  decode ⟨0b000010100#9, 0⟩ = .ok .rdResult ∧
  decode ⟨0b000100000#9, 0⟩ = .ok .rdBuildDate

/-- R55, R59: a step takes the oldest pending transaction off the port and, where its selector is legal, runs
the operation on the state without it. -/
def Obligations.StepRunsDecodedTransaction : Prop :=
  ∀ (s : State) (t : Txn) (rest : List PortEvent) (i : Instr),
    s.pending = .txn t :: rest → decode t.request = .ok i →
    step s = exec i { s with pending := rest }

/-- With nothing pending a step is a next state unchanged: the model's deduction (DEDUCED, log entry 16) from
R281. The pending list is the model's own field (log entry 1). -/
def Obligations.IdleStepChangesNothing : Prop :=
  ∀ s : State, s.pending = [] → step s = .next s

/-- R254: an illegal selector gives the error response and changes no state of the block; for a program that
did not expect it, it is a fault. -/
def Obligations.IllegalSelectorRaisesBusError : Prop :=
  ∀ (s : State) (t : Txn) (rest : List PortEvent) (e : DecodeError),
    s.pending = .txn t :: rest → decode t.request = .error e →
    (t.expectsError = true → step s = .next { s with pending := rest, resp := .error }) ∧
    (t.expectsError = false → step s = .fault (.busError t.request.off))

/-- R280: reset gives every element its reset value, and the register views follow. That the later events stay
pending is the model's choice (DESIGN CHOICE, log entry 6). -/
def Obligations.ResetInputGivesResetValues : Prop :=
  ∀ (s : State) (rest : List PortEvent), s.pending = .reset :: rest →
    ∃ t, step s = .next t ∧
      t.session = false ∧ t.decodeEn = false ∧ t.thresh = 1024#16 ∧ t.carry = [] ∧
      t.phase = .scan ∧ t.win = [] ∧ t.mbValid = false ∧ t.mbPayload = 0#16 ∧
      t.lastCode = .none ∧ t.lastCw = 0#15 ∧ t.pending = rest ∧
      exec .rdStatus t = .next (t.respond (.rdata 0x00000000#32)) ∧
      exec .rdCtrl t = .next (t.respond (.rdata 0x00000000#32)) ∧
      exec .rdThresh t = .next (t.respond (.rdata 0x00000400#32)) ∧
      exec .rdLast t = .next (t.respond (.rdata 0x00000000#32)) ∧
      exec .rdResult t = .next (t.respond (.rdata 0x00000000#32))

/-- R262, R58: the block does not tell its agents apart. -/
def Obligations.IssuerDoesNotMatter : Prop :=
  ∀ (s : State) (r : Request) (e : Bool) (a b : Agent) (rest : List PortEvent),
    step { s with pending := .txn ⟨a, r, e⟩ :: rest } =
      step { s with pending := .txn ⟨b, r, e⟩ :: rest }

/-- R72: every operation completes, a write with an acknowledge and a read with its data. -/
def Obligations.EveryOperationCompletes : Prop :=
  ∀ (i : Instr) (s : State), ∃ t, exec i s = .next t ∧
    ((encode i).isWrite = true → t.resp = .okay) ∧
    ((encode i).isWrite = false → ∃ v, t.resp = .rdata v)

/-- R43, R73: the bits of a data word that no field names have no effect. -/
def Obligations.UnnamedWriteBitsAreIgnored : Prop :=
  ∀ (w v : Word) (s : State),
    (w.extractLsb' 0 16 = v.extractLsb' 0 16 →
      exec (.push w) s = exec (.push v) s ∧ exec (.wrThresh w) s = exec (.wrThresh v) s) ∧
    (w.getLsbD 0 = v.getLsbD 0 → exec (.wrCtrl w) s = exec (.wrCtrl v) s) ∧
    (w.getLsbD 0 = v.getLsbD 0 → w.getLsbD 1 = v.getLsbD 1 →
      exec (.wrCmd w) s = exec (.wrCmd v) s)

/-! ### The host registers -/

/-- R220. -/
def Obligations.WrCtrlSetsDecodeEnable : Prop :=
  ∀ (w : Word) (s : State),
    (w.getLsbD 0 = true →
      exec (.wrCtrl w) s = .next { s with decodeEn := true, resp := .okay }) ∧
    (w.getLsbD 0 = false →
      exec (.wrCtrl w) s =
        .next { s with decodeEn := false, win := [], phase := .scan, resp := .okay })

/-- R222, R223, R224. -/
def Obligations.WrCmdStartsAndStops : Prop :=
  ∀ (w : Word) (s : State),
    (w.getLsbD 0 = true →
      exec (.wrCmd w) s =
        .next { s with session := true, carry := [], win := [], phase := .scan, resp := .okay }) ∧
    (w.getLsbD 0 = false → w.getLsbD 1 = true →
      exec (.wrCmd w) s =
        .next { s with session := false, carry := [], win := [], phase := .scan, resp := .okay }) ∧
    (w.getLsbD 0 = false → w.getLsbD 1 = false →
      exec (.wrCmd w) s = .next { s with resp := .okay })

/-- R221, R227: CTRL and THRESH as they read, every reserved bit 0. -/
def Obligations.RdCtrlAndRdThreshReadBack : Prop :=
  ∀ s : State,
    exec .rdCtrl s = .next { s with resp := .rdata (if s.decodeEn then 1#32 else 0#32) } ∧
    exec .rdThresh s = .next { s with resp := .rdata (BitVec.ofNat 32 s.thresh.toNat) }

/-- R226. -/
def Obligations.WrThreshTakesLowHalf : Prop :=
  ∀ (w : Word) (s : State),
    exec (.wrThresh w) s =
      .next { s with thresh := BitVec.ofNat 16 (w.toNat % 65536), resp := .okay }

/-- R225, R37: every field of STATUS, in any state whose sequences have their legal lengths. -/
def Obligations.RdStatusShowsEveryField : Prop :=
  ∀ s : State, s.carry.length ≤ 32 → s.win.length ≤ 1101 →
    ∃ v : Word, exec .rdStatus s = .next { s with resp := .rdata v } ∧
      v.getLsbD 0 = s.mbValid ∧ v.getLsbD 1 = s.session ∧ v.getLsbD 2 = s.decodeEn ∧
      (v.getLsbD 3 = true ↔ s.phase = .accum) ∧
      v.extractLsb' 4 4 = 0#4 ∧ (v.extractLsb' 8 6).toNat = s.carry.length ∧
      v.extractLsb' 14 2 = 0#2 ∧ (v.extractLsb' 16 11).toNat = s.win.length ∧
      v.extractLsb' 27 5 = 0#5

/-- R228. -/
def Obligations.RdResultTakesIfValid : Prop :=
  ∀ s : State,
    (s.mbValid = true →
      exec .rdResult s =
        .next { s with
          mbValid := false
          resp := .rdata (0x80000000#32 ||| BitVec.ofNat 32 s.mbPayload.toNat) }) ∧
    (s.mbValid = false → exec .rdResult s = .next { s with resp := .rdata 0#32 })

/-- R234: after two publishes the next RESULT read returns the second payload, and the one after it nothing. -/
def Obligations.SecondPublishReplacesFirst : Prop :=
  ∀ (s : State) (p q : BitVec 16), ∃ t u,
    exec .rdResult ((s.publish p).publish q) = .next t ∧
      t.resp = .rdata (0x80000000#32 ||| BitVec.ofNat 32 q.toNat) ∧
    exec .rdResult t = .next u ∧ u.resp = .rdata 0#32 ∧ u.mbValid = false

/-- R230, R40, R251: every field of LAST_OUTCOME. -/
def Obligations.RdLastShowsEveryField : Prop :=
  ∀ s : State, ∃ v : Word, exec .rdLast s = .next { s with resp := .rdata v } ∧
    v.extractLsb' 0 4 =
      (match s.lastCode with
        | .none => 0#4 | .ok => 1#4 | .noSignal => 2#4 | .truncated => 3#4
        | .bitAmbig => 4#4 | .header => 5#4 | .trailer => 6#4 | .parity => 7#4) ∧
    v.extractLsb' 4 12 = 0#12 ∧ v.extractLsb' 16 15 = s.lastCw ∧ v.getLsbD 31 = false

/-- R231, R232: the two open constants. -/
def Obligations.RdVersionAndRdBuildDateReadParameters : Prop :=
  ∀ s : State,
    exec .rdVersion s = .next { s with resp := .rdata Config.versionId } ∧
    exec .rdBuildDate s = .next { s with resp := .rdata Config.buildDate }

/-- R56: the reads without a side effect change nothing of the block, and read the same again. -/
def Obligations.PlainReadsHaveNoSideEffect : Prop :=
  ∀ (i : Instr) (s : State),
    i ∈ [Instr.rdStatus, .rdCtrl, .rdThresh, .rdLast, .rdVersion, .rdBuildDate] →
    ∃ t v, exec i s = .next t ∧ SameBlock s t ∧ t.pending = s.pending ∧
      t.arithmetic = s.arithmetic ∧ t.resp = .rdata v ∧ exec i t = .next t

/-! ### Which operation writes what -/

/-- R21, R25, R32, R103: the frame of every operation, element by element. -/
def Obligations.EachElementHasItsOwnWriters : Prop :=
  ∀ (i : Instr) (s t : State), exec i s = .next t →
    (t.thresh ≠ s.thresh → ∃ w, i = .wrThresh w) ∧
    (t.session ≠ s.session → ∃ w, i = .wrCmd w) ∧
    (t.decodeEn ≠ s.decodeEn → ∃ w, i = .wrCtrl w) ∧
    (t.carry ≠ s.carry → ∃ w, i = .push w ∨ i = .wrCmd w) ∧
    (t.phase ≠ s.phase ∨ t.win ≠ s.win → ∃ w, i = .push w ∨ i = .wrCtrl w ∨ i = .wrCmd w) ∧
    (s.mbValid = true → t.mbValid = false → i = .rdResult) ∧
    (s.mbValid = false → t.mbValid = true → ∃ w, i = .push w) ∧
    (t.mbPayload ≠ s.mbPayload ∨ t.lastCode ≠ s.lastCode ∨ t.lastCw ≠ s.lastCw →
      ∃ w, i = .push w) ∧
    t.pending = s.pending ∧ t.arithmetic = s.arithmetic

/-- R100, R120, R123: the frame of PUSH. It leaves SESSION, DECODE_EN and THRESH alone, and the result
registers too unless it completes a window. -/
def Obligations.PushLeavesResultsUnlessWindowCompletes : Prop :=
  ∀ (w : Word) (s t : State), exec (.push w) s = .next t →
    t.session = s.session ∧ t.decodeEn = s.decodeEn ∧ t.thresh = s.thresh ∧
    t.pending = s.pending ∧
    (¬ (s.session = true ∧ s.decodeEn = true ∧ s.phase = .accum ∧ s.win.length = 1101 ∧
        32 ≤ s.carry.length) → SameResult s t)

/-- R44: the invariants hold right after reset. -/
def Obligations.ResetMeetsInvariant : Prop := Inv State.reset

/-- R44: every step keeps the invariants, from every state that meets them. -/
def Obligations.EveryStepKeepsInvariant : Prop :=
  ∀ s t : State, Inv s → step s = .next t → Inv t

/-! ### PUSH, the carry and the detector -/

/-- R100: the three cases of PUSH, and the sample it submits. -/
def Obligations.PushFollowsSampleInputRule : Prop :=
  ∀ (w : Word) (s : State),
    ((sampleOf w).toInt =
      if w.toNat % 65536 < 32768 then ((w.toNat % 65536 : Nat) : Int)
      else ((w.toNat % 65536 : Nat) : Int) - 65536) ∧
    (s.session = false → exec (.push w) s = .next { s with resp := .okay }) ∧
    (s.session = true → s.carry.length < 32 →
      exec (.push w) s = .next { s with carry := s.carry ++ [sampleOf w], resp := .okay }) ∧
    (∀ (x : Sample) (k : List Sample), s.session = true → s.carry = x :: k → 31 ≤ k.length →
      exec (.push w) s =
        .next { ({ s with carry := k ++ [sampleOf w] }.handoff x) with resp := .okay })

/-- R120: the cases of Handoff. -/
def Obligations.HandoffProbesOrAccumulates : Prop :=
  ∀ (s : State) (x : Sample),
    (s.decodeEn = false → s.handoff x = s) ∧
    (s.decodeEn = true → s.phase = .scan →
      s.handoff x =
        if 4 ≤ loudCount s.thresh (x :: s.carry.take 4) then
          { s with phase := .accum, win := [x] }
        else s) ∧
    (s.decodeEn = true → s.phase = .accum →
      s.handoff x =
        if s.win.length + 1 = 1102 then { s with win := s.win ++ [x] }.frameComplete
        else { s with win := s.win ++ [x] })

/-- R121: a positive probe starts the window at the probed sample itself, and STATUS.WIN_IDX reads 1. -/
def Obligations.WindowStartsAtProbedSample : Prop :=
  ∀ (w : Word) (s : State) (x : Sample) (k : List Sample),
    s.session = true → s.decodeEn = true → s.phase = .scan → s.carry = x :: k → k.length = 31 →
    4 ≤ loudCount s.thresh (x :: k.take 4) →
    ∃ t, exec (.push w) s =
        .next { s with
          carry := k ++ [sampleOf w], phase := .accum, win := [x], resp := .okay } ∧
      exec (.push w) s = .next t ∧ ((statusWord t).extractLsb' 16 11).toNat = 1

/-- R120 corner case (b): with THRESH at 32768 or above no PUSH starts a frame. -/
def Obligations.HighThresholdNeverStartsFrame : Prop :=
  ∀ (w : Word) (s : State), 32768 ≤ s.thresh.toNat → s.phase = .scan →
    ∃ t, exec (.push w) s = .next t ∧ t.phase = .scan ∧ t.win = s.win ∧ SameResult s t

/-- R102: after a block the carry is the last 32 samples of the carry and the block together, whatever the
block's length. -/
def Obligations.BlockLeavesLast32InCarry : Prop :=
  ∀ (ws : List Word) (s : State), s.session = true → s.carry.length ≤ 32 →
    ∃ t, execAll (submit ws) s = .next t ∧
      t.carry = lastOf 32 (s.carry ++ ws.map sampleOf)

/-- R101, R122: while a window accumulates, the samples handed off are appended to it in stream order, each
once, 32 samples behind the stream. -/
def Obligations.WindowTakesStreamInOrder : Prop :=
  ∀ (ws : List Word) (s : State),
    s.session = true → s.decodeEn = true → s.phase = .accum → s.carry.length = 32 →
    s.win.length + ws.length ≤ 1101 →
    ∃ t, execAll (submit ws) s = .next t ∧ t.phase = .accum ∧
      t.win = s.win ++ (s.carry ++ ws.map sampleOf).take ws.length ∧
      t.carry = (s.carry ++ ws.map sampleOf).drop ws.length ∧ SameResult s t

/-- R283, R286: no frame completes before the window can have its 1102 samples, 32 samples behind the stream.
From START that is the 1134th accepted PUSH. -/
def Obligations.NoFrameCompletesEarly : Prop :=
  ∀ (ws : List Word) (s : State),
    s.carry.length ≤ 32 → (s.phase = .scan → s.win = []) → s.win.length ≤ 1101 →
    s.win.length + (s.carry.length + ws.length - 32) < 1102 →
    ∃ t, execAll (submit ws) s = .next t ∧ SameResult s t

/-! ### Frame completion -/

/-- R123, R124, R229, R233, R252: what FrameComplete writes, on OK and on a failure. -/
def Obligations.FrameCompleteWritesOutcome : Prop :=
  ∀ s : State,
    let r := frameDecode s.numerics s.win s.thresh
    r.code ≠ .none ∧
    (r.code = .ok → ∃ p : BitVec 16, r.payload = some p ∧ p.toNat ≤ 511 ∧
      s.frameComplete =
        { s with
          lastCode := .ok, lastCw := r.cw, mbPayload := p, mbValid := true
          win := [], phase := .scan }) ∧
    (r.code ≠ .ok →
      s.frameComplete =
        { s with
          lastCode := r.code
          lastCw := if r.code ∈ [OutcomeCode.header, .trailer, .parity] then r.cw else 0
          win := [], phase := .scan })

/-- R55, R123: the PUSH that hands off a window's last sample runs the whole decode. -/
def Obligations.CompletingPushDecodesInside : Prop :=
  ∀ (w : Word) (s : State) (x : Sample) (k : List Sample), AboutToComplete s x k →
    ∃ t, exec (.push w) s = .next t ∧
      t.lastCode = (frameDecode s.numerics (s.win ++ [x]) s.thresh).code ∧
      t.phase = .scan ∧ t.win = [] ∧ t.carry = k ++ [sampleOf w] ∧ t.resp = .okay ∧
      (t.lastCode ≠ .ok → t.mbValid = s.mbValid ∧ t.mbPayload = s.mbPayload)

/-- The round trip (95_test_vectors.md S1): a window whose classification carries the codeword of a payload
publishes that payload, and the next RESULT read returns it. -/
def Obligations.CarriedPayloadIsPublishedAndTaken : Prop :=
  ∀ (w : Word) (s : State) (x : Sample) (k : List Sample) (d : BitVec 9),
    AboutToComplete s x k →
    Carries (classifyWindow s.numerics (s.win ++ [x]) s.thresh) (encodeCodeword d) →
    ∃ t u, exec (.push w) s = .next t ∧ t.lastCode = .ok ∧ t.lastCw = encodeCodeword d ∧
      t.mbValid = true ∧ t.phase = .scan ∧ t.win = [] ∧
      exec .rdResult t = .next u ∧ u.mbValid = false ∧
      u.resp = .rdata (0x80000000#32 ||| BitVec.ofNat 32 d.toNat)

/-- R205 at the level of the classification (95_test_vectors.md S2): one flipped codeword bit never yields a
payload, and the failure is the one of the bit's place. -/
def Obligations.FlippedCodewordBitNeverPublishes : Prop :=
  ∀ (c : List ToneClass) (d : BitVec 9) (k : Nat), k < 15 →
    Carries c (encodeCodeword d ^^^ BitVec.ofNat 15 (2 ^ k)) →
    (decodeClasses c).payload = none ∧
    (decodeClasses c).code =
      if k = 0 then .header else if k = 14 then .trailer else .parity

/-! ### The bit assembler -/

/-- R181, R182, R183, R187, R255: Assemble's outcome, in the order of its checks. -/
def Obligations.AssembleReportsFirstFailure : Prop :=
  ∀ c : List ToneClass,
    ((∀ x ∈ c, x = .ambiguous) → assemble c = .error (.noSignal, 0)) ∧
    ((∃ x ∈ c, x ≠ .ambiguous) → 292 < bitOrigin c → assemble c = .error (.truncated, 0)) ∧
    ((∃ x ∈ c, x ≠ .ambiguous) → bitOrigin c ≤ 292 →
      (∃ k < 15, (interval c k).count .toneA ≤ 27 ∧ (interval c k).count .toneB ≤ 27) →
      assemble c = .error (.bitAmbig, 0)) ∧
    (∀ cw : BitVec 15, (∃ x ∈ c, x ≠ .ambiguous) → bitOrigin c ≤ 292 →
      (∀ k < 15, ¬ ((interval c k).count .toneA ≤ 27 ∧ (interval c k).count .toneB ≤ 27)) →
      (∀ k < 15, cw.getLsbD k =
        decide ((interval c k).count .toneA < (interval c k).count .toneB)) →
      assemble c =
        if cw.getLsbD 0 = true then .error (.header, cw)
        else if cw.getLsbD 14 = false then .error (.trailer, cw)
        else .ok cw)

/-- R183: the origin is the first index that is not AMBIGUOUS. -/
def Obligations.OriginIsFirstUnambiguous : Prop :=
  ∀ (c : List ToneClass) (o : Nat), o < c.length →
    (bitOrigin c = o ↔
      (c.getD o .ambiguous ≠ .ambiguous ∧ ∀ j < o, c.getD j .ambiguous = .ambiguous))

/-- R185: the majority vote, by counts. -/
def Obligations.VoteNeedsTwentyEight : Prop :=
  ∀ v : List ToneClass, v.length ≤ 54 →
    (voteBit v = some true ↔ 28 ≤ v.count .toneB) ∧
    (voteBit v = some false ↔ 28 ≤ v.count .toneA) ∧
    (voteBit v = none ↔ v.count .toneA ≤ 27 ∧ v.count .toneB ≤ 27)

/-- R188: Strip takes codeword bits 13 to 1. -/
def Obligations.StripTakesMiddleBits : Prop :=
  ∀ cw : BitVec 15, strip cw = cw.extractLsb' 1 13

/-! ### The decoder -/

/-- R202, R204, R206: each payload has exactly one passing candidate, and it decodes to the payload. -/
def Obligations.EachPayloadHasOneCandidate : Prop :=
  (∀ d : BitVec 9, eccDecode (encodeCand d) = d.setWidth 16) ∧
  (∀ (cand : BitVec 13), eccDecode cand ≠ 0xFFFF#16 →
    cand = encodeCand ((eccDecode cand).setWidth 9) ∧ (eccDecode cand).toNat ≤ 511)

/-- R204: every single-bit and every double-bit change of a passing candidate fails. -/
def Obligations.OneOrTwoFlipsFail : Prop :=
  ∀ (cand : BitVec 13) (a b : Nat), a < 13 → b < 13 → eccDecode cand ≠ 0xFFFF#16 →
    eccDecode (cand ^^^ BitVec.ofNat 13 (2 ^ a)) = 0xFFFF#16 ∧
    (a ≠ b →
      eccDecode (cand ^^^ BitVec.ofNat 13 (2 ^ a) ^^^ BitVec.ofNat 13 (2 ^ b)) = 0xFFFF#16)

/-! ### The AGC -/

/-- R140, R142: the first segment of a window, closed by a crossing, is rescaled to full scale where its
largest absolute sample exceeds the threshold, and the rest is treated alike. -/
def Obligations.AgcRescalesClosedSegment : Prop :=
  ∀ (t m : ℚ) (seg rest : List ℚ) (y : ℚ),
    0 ≤ t → (∃ v ∈ seg, |v| = m) → (∀ v ∈ seg, |v| ≤ m) →
    (∀ v ∈ seg, (v < 0 ↔ ¬ y < 0)) →
    agcReal (seg ++ y :: rest) t =
      (if t < m then seg.map (fun v => v * 32768 / m) else seg) ++ agcReal (y :: rest) t

/-- R143: a window without a crossing is returned as it is. -/
def Obligations.AgcLeavesUnclosedSegment : Prop :=
  ∀ (t : BitVec 16) (w : List Sample),
    ((∀ x ∈ w, x.toInt < 0) ∨ (∀ x ∈ w, 0 ≤ x.toInt)) →
    agc w t = w.map (fun x => (x.toInt : ℚ))

/-- R145. -/
def Obligations.AgcIsIdempotent : Prop :=
  ∀ (w : List Sample) (t : BitVec 16), t.toNat < 32768 →
    agcReal (agc w t) (t.toNat : ℚ) = agc w t

/-- R142 corner case (e): at a threshold of 32768 or above nothing is rescaled. -/
def Obligations.AgcHighThresholdRescalesNothing : Prop :=
  ∀ (w : List Sample) (t : BitVec 16), 32768 ≤ t.toNat →
    agc w t = w.map (fun x => (x.toInt : ℚ))

/-- R142 corner case (b): the output is aligned with the window and never above full scale. -/
def Obligations.AgcStaysWithinFullScale : Prop :=
  ∀ (w : List Sample) (t : BitVec 16),
    (agc w t).length = w.length ∧ ∀ a ∈ agc w t, |a| ≤ 32768

/-! ### The correlator and its exact reference -/

/-- The phasors of the concrete fixed-point arithmetic, Numerics.fixedPoint (the model's choice: DESIGN CHOICE, log
entry 5), stay within 2^-50 of the exact phase of R160 over a whole window. It says nothing of the open
parameter NUMERICS, which a machine has from reset. -/
def Obligations.PhasorsTrackExactPhase : Prop :=
  ∀ (f : Tone) (n : Nat), n ≤ 1101 →
    |((((rotate (phasorStep f))^[n] ((fixOne : Int), 0)).1 : Int) : ℝ) / (fixOne : ℝ) -
        Real.cos (Reference.phase f 0 n)| ≤ 1 / 2 ^ 50 ∧
    |((((rotate (phasorStep f))^[n] ((fixOne : Int), 0)).2 : Int) : ℝ) / (fixOne : ℝ) -
        Real.sin (Reference.phase f 0 n)| ≤ 1 / 2 ^ 50

/-- The profile of the concrete fixed-point arithmetic, Numerics.fixedPoint (the model's choice: DESIGN CHOICE, log
entry 5), lies within 2^-34 of the exact real profile of R165 at every index. It says nothing of the open
parameter NUMERICS, which a machine has from reset. -/
def Obligations.EnergyTracksExactReference : Prop :=
  ∀ (f : Tone) (a : List ℚ), a.length ≤ 1102 → (∀ x ∈ a, |x| ≤ 32768) →
    (energy a f).length = a.length ∧
    ∀ i < a.length,
      |(((energy a f).getD i 0 : Nat) : ℝ) / (energyOne : ℝ) - Reference.energy a f i| ≤
        1 / 2 ^ 34

/-- R168, R180: in any arithmetic with an error bound, an index none of whose comparisons is a draw has the
exact rule's class. -/
def Obligations.ClassifyIsExactOutsideDraws : Prop :=
  ∀ (N : Numerics) (b : ℝ) (w : List Sample) (t : BitVec 16) (i : Nat),
    N.Lawful (some b) → w.length = 1102 → i < 1102 → NoDraw w t b i →
    (classifyWindow N w t).getD i .ambiguous =
      exactClass (Reference.windowEnergy w t .a i) (Reference.windowEnergy w t .b i)

/-- R168, R180: the reference instance has no draws. Every index has the exact rule's class: a sum of 4096 and an
exact tie are AMBIGUOUS. -/
def Obligations.ReferenceInstanceHasNoDraws : Prop :=
  ∀ (w : List Sample) (t : BitVec 16) (i : Nat), i < w.length →
    (classifyWindow .reference w t).getD i .ambiguous =
      exactClass (Reference.windowEnergy w t .a i) (Reference.windowEnergy w t .b i)

/-- R126, R168: where no comparison is a draw, every arithmetic decodes the frame as the reference does. -/
def Obligations.DecodeIsReferenceOutsideDraws : Prop :=
  ∀ (N : Numerics) (b : ℝ) (w : List Sample) (t : BitVec 16),
    N.Lawful (some b) → w.length = 1102 → (∀ i < 1102, NoDraw w t b i) →
    frameDecode N w t = frameDecode .reference w t

/-- R168: the concrete arithmetic (the model's choice, log entry 5) is an instance of NUMERICS with the error
bound 2^-32. -/
def Obligations.FixedPointIsLawful : Prop := Numerics.fixedPoint.Lawful (some (1 / 2 ^ 32))

/-- R182: a window whose combined exact energy is nowhere above the coherence threshold, and no closer to it than
the error bound, never yields a codeword. -/
def Obligations.IncoherentWindowHasNoSignal : Prop :=
  ∀ (N : Numerics) (b : ℝ) (w : List Sample) (t : BitVec 16),
    N.Lawful (some b) → w.length = 1102 →
    (∀ i < 1102,
      Reference.windowEnergy w t .a i + Reference.windowEnergy w t .b i ≤ 4096 ∧
      b ≤ |Reference.windowEnergy w t .a i + Reference.windowEnergy w t .b i - 4096|) →
    frameDecode N w t = ⟨.noSignal, 0, none⟩

/-- R167: the starting phase decides nothing in the reference. -/
def Obligations.ReferenceIgnoresStartingPhase : Prop :=
  ∀ (a : List ℚ) (f : Tone) (phi0 : ℝ) (i : ℕ),
    Reference.blockMagnitude a f phi0 i = Reference.blockMagnitude a f 0 i

/-- R165 corner case (b): the exact energies lie between 0 and full scale. -/
def Obligations.ReferenceEnergyWithinFullScale : Prop :=
  ∀ (a : List ℚ) (f : Tone) (i : ℕ), (∀ x ∈ a, |x| ≤ 32768) →
    0 ≤ Reference.energy a f i ∧ Reference.energy a f i ≤ 32768
end

