-- ==== Sys2Proof/Laws/Agc.lean ====
section
/-! SUPPORT. What the AGC's segments and peaks are (42_agc.md R140 to R143). -/

namespace Sys2Proof.Machine

/-- One more sample either joins the first segment or starts one of its own. -/
theorem agcSegments_cons (x : ℚ) (xs : List ℚ) :
    (xs = [] ∧ agcSegments (x :: xs) = [[x]]) ∨
    (∃ y seg rest, agcSegments xs = (y :: seg) :: rest ∧
      ((agcNeg x = agcNeg y ∧ agcSegments (x :: xs) = (x :: y :: seg) :: rest) ∨
       (agcNeg x ≠ agcNeg y ∧ agcSegments (x :: xs) = [x] :: (y :: seg) :: rest))) := by
  induction xs generalizing x with
  | nil => exact .inl ⟨rfl, rfl⟩
  | cons z zs ih =>
    right
    have hz : ∃ y seg rest, agcSegments (z :: zs) = (y :: seg) :: rest := by
      rcases ih z with ⟨_, h⟩ | ⟨y, seg, rest, _, ⟨_, h⟩ | ⟨_, h⟩⟩
      · exact ⟨_, _, _, h⟩
      · exact ⟨_, _, _, h⟩
      · exact ⟨_, _, _, h⟩
    obtain ⟨y, seg, rest, hy⟩ := hz
    refine ⟨y, seg, rest, hy, ?_⟩
    rw [agcSegments, hy]
    by_cases h : agcNeg x = agcNeg y <;> simp [h]

theorem agcSegments_flatten (w : List ℚ) : (agcSegments w).flatten = w := by
  induction w with
  | nil => rfl
  | cons x xs ih =>
    rcases agcSegments_cons x xs with ⟨rfl, h⟩ | ⟨y, seg, rest, hy, ⟨_, h⟩ | ⟨_, h⟩⟩ <;> rw [h]
    · rfl
    all_goals rw [hy] at ih; simpa using ih

theorem agcSegments_ne_nil {w seg : List ℚ} (h : seg ∈ agcSegments w) : seg ≠ [] := by
  induction w generalizing seg with
  | nil => simp [agcSegments] at h
  | cons x xs ih =>
    rcases agcSegments_cons x xs with ⟨rfl, hs⟩ | ⟨y, seg', rest, hy, ⟨_, hs⟩ | ⟨_, hs⟩⟩ <;>
      rw [hs] at h <;> rw [List.mem_cons] at h <;> rcases h with rfl | h
    · simp
    · simp at h
    · simp
    · exact ih (by rw [hy]; exact List.mem_cons_of_mem _ h)
    · simp
    · exact ih (by rw [hy]; exact h)

/-- All samples of a segment have the same sign (42_agc.md R141). -/
theorem agcSegments_sign {w seg : List ℚ} (h : seg ∈ agcSegments w) :
    ∀ u ∈ seg, ∀ v ∈ seg, agcNeg u = agcNeg v := by
  induction w generalizing seg with
  | nil => simp [agcSegments] at h
  | cons x xs ih =>
    rcases agcSegments_cons x xs with ⟨rfl, hs⟩ | ⟨y, seg', rest, hy, ⟨hxy, hs⟩ | ⟨_, hs⟩⟩ <;>
      rw [hs] at h <;> rw [List.mem_cons] at h <;> rcases h with rfl | h
    · simp
    · simp at h
    · have hseg := ih (seg := y :: seg') (by rw [hy]; simp)
      have key : ∀ v ∈ x :: y :: seg', agcNeg v = agcNeg y := by
        intro v hv
        rcases List.mem_cons.1 hv with rfl | hv
        · exact hxy
        · exact hseg v hv y (by simp)
      intro u hu v hv
      rw [key u hu, key v hv]
    · exact ih (by rw [hy]; exact List.mem_cons_of_mem _ h)
    · simp
    · exact ih (by rw [hy]; exact h)

theorem upPeak_nonneg (seg : List ℚ) : 0 ≤ upPeak seg := by
  induction seg with
  | nil => exact le_rfl
  | cons x xs ih => simp only [upPeak]; split <;> linarith

theorem le_upPeak {seg : List ℚ} {v : ℚ} (h : v ∈ seg) : v ≤ upPeak seg := by
  induction seg with
  | nil => simp at h
  | cons x xs ih =>
    simp only [upPeak]
    rcases List.mem_cons.1 h with rfl | h
    · split <;> linarith
    · have := ih h; split <;> linarith

theorem upPeak_mem (seg : List ℚ) : upPeak seg = 0 ∨ upPeak seg ∈ seg := by
  induction seg with
  | nil => exact .inl rfl
  | cons x xs ih =>
    simp only [upPeak]
    split
    · simp
    · rcases ih with h | h
      · exact .inl h
      · exact .inr (List.mem_cons_of_mem _ h)

theorem downPeak_nonpos (seg : List ℚ) : downPeak seg ≤ 0 := by
  induction seg with
  | nil => exact le_rfl
  | cons x xs ih => simp only [downPeak]; split <;> linarith

theorem downPeak_le {seg : List ℚ} {v : ℚ} (h : v ∈ seg) : downPeak seg ≤ v := by
  induction seg with
  | nil => simp at h
  | cons x xs ih =>
    simp only [downPeak]
    rcases List.mem_cons.1 h with rfl | h
    · split <;> linarith
    · have := ih h; split <;> linarith

theorem downPeak_mem (seg : List ℚ) : downPeak seg = 0 ∨ downPeak seg ∈ seg := by
  induction seg with
  | nil => exact .inl rfl
  | cons x xs ih =>
    simp only [downPeak]
    split
    · simp
    · rcases ih with h | h
      · exact .inl h
      · exact .inr (List.mem_cons_of_mem _ h)

/-- `M` bounds every sample of its segment (42_agc.md R141). -/
theorem abs_le_segmentPeak {seg : List ℚ} {v : ℚ} (h : v ∈ seg) : |v| ≤ segmentPeak seg := by
  have h1 := le_upPeak h
  have h2 := downPeak_le h
  unfold segmentPeak
  rw [abs_le]
  split <;> constructor <;> linarith

theorem agcCloseSegment_length (t : ℚ) (seg : List ℚ) :
    (agcCloseSegment t seg).length = seg.length := by
  unfold agcCloseSegment; split <;> simp

theorem agcJoin_length (t : ℚ) (segs : List (List ℚ)) :
    (agcJoin t segs).length = segs.flatten.length := by
  induction segs with
  | nil => rfl
  | cons seg rest ih =>
    cases rest with
    | nil => simp [agcJoin]
    | cons next rest => simp [agcJoin, agcCloseSegment_length, ih]

theorem agcReal_length (w : List ℚ) (t : ℚ) : (agcReal w t).length = w.length := by
  rw [agcReal, agcJoin_length, agcSegments_flatten]

end Sys2Proof.Machine
end

