-- ==== Sys2Proof/Laws/BitAssembler.lean ====
section
/-! SUPPORT. What the votes of consecutive intervals are. -/

namespace Sys2Proof.Machine

/-- The votes of `n` intervals exist exactly when each interval votes, and are those votes in order. -/
theorem voteBits_eq_some {n : Nat} {c : List ToneClass} {bs : List Bool} :
    voteBits n c = some bs ↔
      bs.length = n ∧
        ∀ k < n, voteBit ((c.drop (Config.bitW * k)).take Config.bitW) = bs[k]? := by
  induction n generalizing c bs with
  | zero => simp [voteBits, eq_comm]
  | succ n ih =>
    unfold voteBits
    constructor
    · intro h
      split at h
      · rename_i b bs' hb hbs
        obtain rfl := by simpa using h
        obtain ⟨hl, hk⟩ := ih.1 hbs
        refine ⟨by simp [hl], fun k hkn => ?_⟩
        cases k with
        | zero => simpa using hb
        | succ k =>
          have := hk k (by omega)
          rw [List.drop_drop] at this
          simpa [Nat.mul_succ, Nat.add_comm] using this
      · simp at h
    · rintro ⟨hl, hk⟩
      cases bs with
      | nil => simp at hl
      | cons b bs =>
        have h0 : voteBit (c.take Config.bitW) = some b := by simpa using hk 0 (by omega)
        have h1 : voteBits n (c.drop Config.bitW) = some bs := by
          refine ih.2 ⟨by simpa using hl, fun k hkn => ?_⟩
          have := hk (k + 1) (by omega)
          rw [List.drop_drop]
          simpa [Nat.mul_succ, Nat.add_comm] using this
        simp [h0, h1]

/-- Some interval has no majority tone exactly when there are no votes. -/
theorem voteBits_eq_none {n : Nat} {c : List ToneClass} :
    voteBits n c = none ↔
      ∃ k < n, voteBit ((c.drop (Config.bitW * k)).take Config.bitW) = none := by
  induction n generalizing c with
  | zero => simp [voteBits]
  | succ n ih =>
    unfold voteBits
    constructor
    · intro h
      cases h0 : voteBit (c.take Config.bitW) with
      | none => exact ⟨0, by omega, by simpa using h0⟩
      | some b =>
        cases h1 : voteBits n (c.drop Config.bitW) with
        | none =>
          obtain ⟨k, hk, hv⟩ := ih.1 h1
          refine ⟨k + 1, by omega, ?_⟩
          rw [List.drop_drop] at hv
          simpa [Nat.mul_succ, Nat.add_comm] using hv
        | some bs => simp [h0, h1] at h
    · rintro ⟨k, hk, hv⟩
      cases k with
      | zero => simp at hv; simp [hv]
      | succ k =>
        have h1 : voteBits n (c.drop Config.bitW) = none := by
          refine ih.2 ⟨k, by omega, ?_⟩
          rw [List.drop_drop]
          simpa [Nat.mul_succ, Nat.add_comm] using hv
        cases voteBit (c.take Config.bitW) <;> simp [h1]

end Sys2Proof.Machine
end

