-- ==== Sys2Proof/Laws/Correlator.lean ====
section
/-! SUPPORT. The integer square root is exact, what stands at each index of the correlator's lists, and what a
comparison under NUMERICS can answer. -/

namespace Sys2Proof.Machine

/-! ### The integer square root -/

/-- One step of Newton's iteration stays at or above the root. -/
theorem newton_ge {n x r : Nat} (hx : 0 < x) (hr : r * r ≤ n) : r ≤ (x + n / x) / 2 := by
  have h : 2 * r - x ≤ n / x := by
    rw [Nat.le_div_iff_mul_le hx]
    refine le_trans ?_ hr
    rcases le_total x (2 * r) with h | h
    · zify [h]
      nlinarith [sq_nonneg ((r : ℤ) - x)]
    · simp [Nat.sub_eq_zero_of_le h]
  omega

/-- Above the root, Newton's step comes down at least half the way. -/
theorem newton_le {n x r : Nat} (hr : n < (r + 1) * (r + 1)) (hx : r < x) :
    (x + n / x) / 2 ≤ (x + r) / 2 := by
  have h : n / x ≤ r := by
    rw [← Nat.lt_succ_iff, Nat.div_lt_iff_lt_mul (by omega)]
    exact lt_of_lt_of_le hr (Nat.mul_le_mul_left _ hx)
  omega

/-- Newton's iteration from at or above the root ends at it, with fuel for the halving of the distance. -/
theorem isqrtFrom_eq {n r : Nat} (h0 : 0 < r) (hr : r * r ≤ n) (hr' : n < (r + 1) * (r + 1))
    (k x : Nat) (hge : r ≤ x) (hfuel : x - r < 2 ^ k) : isqrtFrom n k x = r := by
  induction k generalizing x with
  | zero => simp at hfuel; simp [isqrtFrom]; omega
  | succ k ih =>
    have hy := newton_ge (by omega : 0 < x) hr
    unfold isqrtFrom
    rcases Nat.eq_or_lt_of_le hge with rfl | hlt
    · rw [if_neg (by omega)]
    · have hle := newton_le hr' hlt
      rw [if_pos (by omega)]
      exact ih _ hy (by rw [Nat.pow_succ] at hfuel; omega)

/-- The integer square root is the one of the library. -/
theorem isqrt_eq_sqrt (n : Nat) : isqrt n = Nat.sqrt n := by
  rcases Nat.eq_zero_or_pos n with rfl | hn
  · decide
  · have hlog : n < 2 ^ (Nat.log2 n + 1) := Nat.lt_log2_self
    have hx : Nat.sqrt n < 2 ^ (Nat.log2 n / 2 + 1) := by
      rw [Nat.sqrt_lt', ← Nat.pow_mul]
      exact lt_of_lt_of_le hlog (Nat.pow_le_pow_right (by norm_num) (by omega))
    refine isqrtFrom_eq (Nat.sqrt_pos.2 hn) (Nat.sqrt_le n) (Nat.lt_succ_sqrt n) _ _ hx.le ?_
    refine lt_of_le_of_lt (Nat.sub_le _ _) (Nat.pow_lt_pow_right (by norm_num) (by omega))

/-! ### The lists of the correlator, index by index -/

theorem products_length (d z : Phasor) (a : List ℚ) : (products d z a).length = a.length := by
  induction a generalizing z with
  | nil => rfl
  | cons x xs ih => simp [products, ih]

/-- The product at index `i` uses the phasor advanced `i` times. -/
theorem products_getElem? (d z : Phasor) (a : List ℚ) (i : Nat) :
    (products d z a)[i]? =
      a[i]?.map (fun x => (toFix x * ((rotate d)^[i] z).1, toFix x * ((rotate d)^[i] z).2)) := by
  induction a generalizing z i with
  | nil => simp [products]
  | cons x xs ih =>
    cases i with
    | zero => simp [products]
    | succ i => simp [products, ih, Function.iterate_succ_apply]

theorem firstPass_length (prev p : List (Int × Int)) : (firstPass prev p).length = p.length := by
  induction p generalizing prev with
  | nil => rfl
  | cons x xs ih => simp [firstPass, ih]

/-- The first pass at index `i` is the magnitude of the products `i`, `i - 1`, ..., at most `INT_N` of them. -/
theorem firstPass_getElem? (prev p : List (Int × Int)) (i : Nat) (h : i < p.length) :
    (firstPass prev p)[i]? =
      some (magnitude (((p.take (i + 1)).reverse ++ prev).take Config.intN)) := by
  induction p generalizing prev i with
  | nil => simp at h
  | cons x xs ih =>
    cases i with
    | zero => simp [firstPass]
    | succ i =>
      simp only [firstPass, List.getElem?_cons_succ]
      rw [ih _ i (by simpa using h)]
      simp

theorem secondPass_length (m : List Nat) : (secondPass m).length = m.length := by
  induction m with
  | nil => rfl
  | cons x xs ih => simp [secondPass, ih]

/-- The second pass at index `i` is the sum of the values from `i` on, at most `SMOOTH_N` of them. -/
theorem secondPass_getElem? (m : List Nat) (i : Nat) (h : i < m.length) :
    (secondPass m)[i]? = some ((m.drop i).take Config.smoothN).sum := by
  induction m generalizing i with
  | nil => simp at h
  | cons x xs ih =>
    cases i with
    | zero => simp [secondPass]
    | succ i => simpa [secondPass] using ih i (by simpa using h)

end Sys2Proof.Machine
end

