-- ==== Sys2Proof/Laws/Ecc.lean ====
section
/-! SUPPORT. What the decoder and the end of FrameDecode can answer. -/

namespace Sys2Proof.Machine

theorem bitsValue_lt (l : List Bool) : bitsValue l < 2 ^ l.length := by
  induction l with
  | nil => simp [bitsValue]
  | cons b bs ih =>
    simp only [bitsValue, List.length_cons, Nat.pow_succ]
    split <;> omega

/-- Bit `k` of the number whose bits are listed is the `k`-th of them. -/
theorem bitsValue_testBit (l : List Bool) (k : Nat) :
    (bitsValue l).testBit k = l.getD k false := by
  induction l generalizing k with
  | nil => simp [bitsValue]
  | cons b bs ih =>
    cases k with
    | zero => cases b <;> simp [bitsValue, Nat.testBit_zero]
    | succ k =>
      rw [Nat.testBit_succ]
      have h : bitsValue (b :: bs) / 2 = bitsValue bs := by
        simp only [bitsValue]; split <;> omega
      rw [h, ih]; simp

theorem dataBits_length : dataBits.length = 9 := by decide

theorem payloadOf_le (cand : Candidate) : (payloadOf cand).toNat ≤ 511 := by
  have h := bitsValue_lt (dataBits.map (fun b => cand.getLsbD b))
  rw [List.length_map, dataBits_length] at h
  simp only [payloadOf, BitVec.toNat_ofNat]
  omega

/-- A payload is never the failure word (45_ecc_decoder.md R201). -/
theorem payloadOf_ne_failWord (cand : Candidate) : payloadOf cand ≠ Config.failWord := by
  intro h
  have := payloadOf_le cand
  rw [h] at this
  exact absurd this (by decide)

theorem eccDecode_eq_failWord (cand : Candidate) :
    eccDecode cand = Config.failWord ↔ parityPasses cand = false := by
  unfold eccDecode
  cases parityPasses cand <;> simp [payloadOf_ne_failWord]

/-- What FrameDecode's end answers on a codeword: PARITY without a payload, or OK with the payload. -/
theorem finishFrame_ok (cw : Codeword) :
    finishFrame (.ok cw) =
      if parityPasses (strip cw) then ⟨.ok, cw, some (payloadOf (strip cw))⟩
      else ⟨.parity, cw, none⟩ := by
  unfold finishFrame
  cases h : parityPasses (strip cw) <;> simp [eccDecode, h, payloadOf_ne_failWord]

/-- A payload comes with OK alone and has 9 bits (45_ecc_decoder.md R202). -/
theorem finishFrame_payload {a : Except (OutcomeCode × Codeword) (Codeword)} {p : BitVec 16}
    (h : (finishFrame a).payload = some p) : (finishFrame a).code = .ok ∧ p.toNat ≤ 511 := by
  match a with
  | .error (c, w) => simp [finishFrame] at h
  | .ok cw =>
    rw [finishFrame_ok] at h ⊢
    cases hp : parityPasses (strip cw) <;> simp only [hp] at h ⊢
    · simp at h
    · simp at h
      exact ⟨rfl, h ▸ payloadOf_le _⟩

theorem frameDecode_payload {N : Numerics} {w : List Sample} {t : BitVec 16} {p : BitVec 16}
    (h : (frameDecode N w t).payload = some p) : (frameDecode N w t).code = .ok ∧ p.toNat ≤ 511 :=
  finishFrame_payload h

/-- The code of a completed frame is never NONE (60_exceptions.md R251). -/
theorem decodeClasses_code_ne_none (c : List ToneClass) : (decodeClasses c).code ≠ .none := by
  unfold decodeClasses assemble
  split
  · simp [finishFrame]
  · split
    · simp [finishFrame]
    · split
      · simp [finishFrame]
      · unfold checkSentinels
        split
        · simp [finishFrame]
        · split
          · simp [finishFrame]
          · rw [finishFrame_ok]; split <;> simp

end Sys2Proof.Machine
end

