-- ==== Sys2Proof/Laws/State.lean ====
section
/-! SUPPORT. What each field is after each update of the state: one lemma per field and update. -/

namespace Sys2Proof.Machine

variable (s : State)

@[simp] theorem State.respond_session (r : Response) : (s.respond r).session = s.session := rfl
@[simp] theorem State.respond_decodeEn (r : Response) : (s.respond r).decodeEn = s.decodeEn := rfl
@[simp] theorem State.respond_thresh (r : Response) : (s.respond r).thresh = s.thresh := rfl
@[simp] theorem State.respond_carry (r : Response) : (s.respond r).carry = s.carry := rfl
@[simp] theorem State.respond_phase (r : Response) : (s.respond r).phase = s.phase := rfl
@[simp] theorem State.respond_win (r : Response) : (s.respond r).win = s.win := rfl
@[simp] theorem State.respond_mbValid (r : Response) : (s.respond r).mbValid = s.mbValid := rfl
@[simp] theorem State.respond_mbPayload (r : Response) : (s.respond r).mbPayload = s.mbPayload := rfl
@[simp] theorem State.respond_lastCode (r : Response) : (s.respond r).lastCode = s.lastCode := rfl
@[simp] theorem State.respond_lastCw (r : Response) : (s.respond r).lastCw = s.lastCw := rfl
@[simp] theorem State.respond_pending (r : Response) : (s.respond r).pending = s.pending := rfl
@[simp] theorem State.respond_resp (r : Response) : (s.respond r).resp = r := rfl
@[simp] theorem State.respond_arithmetic (r : Response) : (s.respond r).arithmetic = s.arithmetic := rfl

@[simp] theorem State.emptyWindow_session : s.emptyWindow.session = s.session := rfl
@[simp] theorem State.emptyWindow_decodeEn : s.emptyWindow.decodeEn = s.decodeEn := rfl
@[simp] theorem State.emptyWindow_thresh : s.emptyWindow.thresh = s.thresh := rfl
@[simp] theorem State.emptyWindow_carry : s.emptyWindow.carry = s.carry := rfl
@[simp] theorem State.emptyWindow_phase : s.emptyWindow.phase = .scan := rfl
@[simp] theorem State.emptyWindow_win : s.emptyWindow.win = [] := rfl
@[simp] theorem State.emptyWindow_mbValid : s.emptyWindow.mbValid = s.mbValid := rfl
@[simp] theorem State.emptyWindow_mbPayload : s.emptyWindow.mbPayload = s.mbPayload := rfl
@[simp] theorem State.emptyWindow_lastCode : s.emptyWindow.lastCode = s.lastCode := rfl
@[simp] theorem State.emptyWindow_lastCw : s.emptyWindow.lastCw = s.lastCw := rfl
@[simp] theorem State.emptyWindow_pending : s.emptyWindow.pending = s.pending := rfl
@[simp] theorem State.emptyWindow_resp : s.emptyWindow.resp = s.resp := rfl
@[simp] theorem State.emptyWindow_arithmetic : s.emptyWindow.arithmetic = s.arithmetic := rfl

@[simp] theorem State.stopSession_session : s.stopSession.session = false := rfl
@[simp] theorem State.stopSession_decodeEn : s.stopSession.decodeEn = s.decodeEn := rfl
@[simp] theorem State.stopSession_thresh : s.stopSession.thresh = s.thresh := rfl
@[simp] theorem State.stopSession_carry : s.stopSession.carry = [] := rfl
@[simp] theorem State.stopSession_phase : s.stopSession.phase = .scan := rfl
@[simp] theorem State.stopSession_win : s.stopSession.win = [] := rfl
@[simp] theorem State.stopSession_mbValid : s.stopSession.mbValid = s.mbValid := rfl
@[simp] theorem State.stopSession_mbPayload : s.stopSession.mbPayload = s.mbPayload := rfl
@[simp] theorem State.stopSession_lastCode : s.stopSession.lastCode = s.lastCode := rfl
@[simp] theorem State.stopSession_lastCw : s.stopSession.lastCw = s.lastCw := rfl
@[simp] theorem State.stopSession_pending : s.stopSession.pending = s.pending := rfl
@[simp] theorem State.stopSession_resp : s.stopSession.resp = s.resp := rfl
@[simp] theorem State.stopSession_arithmetic : s.stopSession.arithmetic = s.arithmetic := rfl

@[simp] theorem State.startSession_session : s.startSession.session = true := rfl
@[simp] theorem State.startSession_decodeEn : s.startSession.decodeEn = s.decodeEn := rfl
@[simp] theorem State.startSession_thresh : s.startSession.thresh = s.thresh := rfl
@[simp] theorem State.startSession_carry : s.startSession.carry = [] := rfl
@[simp] theorem State.startSession_phase : s.startSession.phase = .scan := rfl
@[simp] theorem State.startSession_win : s.startSession.win = [] := rfl
@[simp] theorem State.startSession_mbValid : s.startSession.mbValid = s.mbValid := rfl
@[simp] theorem State.startSession_mbPayload : s.startSession.mbPayload = s.mbPayload := rfl
@[simp] theorem State.startSession_lastCode : s.startSession.lastCode = s.lastCode := rfl
@[simp] theorem State.startSession_lastCw : s.startSession.lastCw = s.lastCw := rfl
@[simp] theorem State.startSession_pending : s.startSession.pending = s.pending := rfl
@[simp] theorem State.startSession_resp : s.startSession.resp = s.resp := rfl
@[simp] theorem State.startSession_arithmetic : s.startSession.arithmetic = s.arithmetic := rfl

@[simp] theorem State.publish_session (p : BitVec 16) : (s.publish p).session = s.session := rfl
@[simp] theorem State.publish_decodeEn (p : BitVec 16) : (s.publish p).decodeEn = s.decodeEn := rfl
@[simp] theorem State.publish_thresh (p : BitVec 16) : (s.publish p).thresh = s.thresh := rfl
@[simp] theorem State.publish_carry (p : BitVec 16) : (s.publish p).carry = s.carry := rfl
@[simp] theorem State.publish_phase (p : BitVec 16) : (s.publish p).phase = s.phase := rfl
@[simp] theorem State.publish_win (p : BitVec 16) : (s.publish p).win = s.win := rfl
@[simp] theorem State.publish_mbValid (p : BitVec 16) : (s.publish p).mbValid = true := rfl
@[simp] theorem State.publish_mbPayload (p : BitVec 16) : (s.publish p).mbPayload = p := rfl
@[simp] theorem State.publish_lastCode (p : BitVec 16) : (s.publish p).lastCode = s.lastCode := rfl
@[simp] theorem State.publish_lastCw (p : BitVec 16) : (s.publish p).lastCw = s.lastCw := rfl
@[simp] theorem State.publish_pending (p : BitVec 16) : (s.publish p).pending = s.pending := rfl
@[simp] theorem State.publish_resp (p : BitVec 16) : (s.publish p).resp = s.resp := rfl
@[simp] theorem State.publish_arithmetic (p : BitVec 16) : (s.publish p).arithmetic = s.arithmetic := rfl

@[simp] theorem State.clearMailbox_session : s.clearMailbox.session = s.session := rfl
@[simp] theorem State.clearMailbox_decodeEn : s.clearMailbox.decodeEn = s.decodeEn := rfl
@[simp] theorem State.clearMailbox_thresh : s.clearMailbox.thresh = s.thresh := rfl
@[simp] theorem State.clearMailbox_carry : s.clearMailbox.carry = s.carry := rfl
@[simp] theorem State.clearMailbox_phase : s.clearMailbox.phase = s.phase := rfl
@[simp] theorem State.clearMailbox_win : s.clearMailbox.win = s.win := rfl
@[simp] theorem State.clearMailbox_mbValid : s.clearMailbox.mbValid = false := rfl
@[simp] theorem State.clearMailbox_mbPayload : s.clearMailbox.mbPayload = s.mbPayload := rfl
@[simp] theorem State.clearMailbox_lastCode : s.clearMailbox.lastCode = s.lastCode := rfl
@[simp] theorem State.clearMailbox_lastCw : s.clearMailbox.lastCw = s.lastCw := rfl
@[simp] theorem State.clearMailbox_pending : s.clearMailbox.pending = s.pending := rfl
@[simp] theorem State.clearMailbox_resp : s.clearMailbox.resp = s.resp := rfl
@[simp] theorem State.clearMailbox_arithmetic : s.clearMailbox.arithmetic = s.arithmetic := rfl

@[simp] theorem State.recordOutcome_session (c : OutcomeCode) (cw : Codeword) : (s.recordOutcome c cw).session = s.session := rfl
@[simp] theorem State.recordOutcome_decodeEn (c : OutcomeCode) (cw : Codeword) : (s.recordOutcome c cw).decodeEn = s.decodeEn := rfl
@[simp] theorem State.recordOutcome_thresh (c : OutcomeCode) (cw : Codeword) : (s.recordOutcome c cw).thresh = s.thresh := rfl
@[simp] theorem State.recordOutcome_carry (c : OutcomeCode) (cw : Codeword) : (s.recordOutcome c cw).carry = s.carry := rfl
@[simp] theorem State.recordOutcome_phase (c : OutcomeCode) (cw : Codeword) : (s.recordOutcome c cw).phase = s.phase := rfl
@[simp] theorem State.recordOutcome_win (c : OutcomeCode) (cw : Codeword) : (s.recordOutcome c cw).win = s.win := rfl
@[simp] theorem State.recordOutcome_mbValid (c : OutcomeCode) (cw : Codeword) : (s.recordOutcome c cw).mbValid = s.mbValid := rfl
@[simp] theorem State.recordOutcome_mbPayload (c : OutcomeCode) (cw : Codeword) : (s.recordOutcome c cw).mbPayload = s.mbPayload := rfl
@[simp] theorem State.recordOutcome_lastCode (c : OutcomeCode) (cw : Codeword) : (s.recordOutcome c cw).lastCode = c := rfl
@[simp] theorem State.recordOutcome_lastCw (c : OutcomeCode) (cw : Codeword) : (s.recordOutcome c cw).lastCw = if c.hasCodeword then cw else 0 := rfl
@[simp] theorem State.recordOutcome_pending (c : OutcomeCode) (cw : Codeword) : (s.recordOutcome c cw).pending = s.pending := rfl
@[simp] theorem State.recordOutcome_resp (c : OutcomeCode) (cw : Codeword) : (s.recordOutcome c cw).resp = s.resp := rfl
@[simp] theorem State.recordOutcome_arithmetic (c : OutcomeCode) (cw : Codeword) : (s.recordOutcome c cw).arithmetic = s.arithmetic := rfl

@[simp] theorem State.assertReset_session : s.assertReset.session = State.reset.session := rfl
@[simp] theorem State.assertReset_decodeEn : s.assertReset.decodeEn = State.reset.decodeEn := rfl
@[simp] theorem State.assertReset_thresh : s.assertReset.thresh = State.reset.thresh := rfl
@[simp] theorem State.assertReset_carry : s.assertReset.carry = State.reset.carry := rfl
@[simp] theorem State.assertReset_phase : s.assertReset.phase = State.reset.phase := rfl
@[simp] theorem State.assertReset_win : s.assertReset.win = State.reset.win := rfl
@[simp] theorem State.assertReset_mbValid : s.assertReset.mbValid = State.reset.mbValid := rfl
@[simp] theorem State.assertReset_mbPayload : s.assertReset.mbPayload = State.reset.mbPayload := rfl
@[simp] theorem State.assertReset_lastCode : s.assertReset.lastCode = State.reset.lastCode := rfl
@[simp] theorem State.assertReset_lastCw : s.assertReset.lastCw = State.reset.lastCw := rfl
@[simp] theorem State.assertReset_pending : s.assertReset.pending = s.pending := rfl
@[simp] theorem State.assertReset_resp : s.assertReset.resp = State.reset.resp := rfl
@[simp] theorem State.assertReset_arithmetic : s.assertReset.arithmetic = s.arithmetic := rfl

@[simp] theorem State.writeResult_session (r : FrameResult) : (s.writeResult r).session = s.session := by
  unfold State.writeResult; split <;> rfl
@[simp] theorem State.writeResult_decodeEn (r : FrameResult) : (s.writeResult r).decodeEn = s.decodeEn := by
  unfold State.writeResult; split <;> rfl
@[simp] theorem State.writeResult_thresh (r : FrameResult) : (s.writeResult r).thresh = s.thresh := by
  unfold State.writeResult; split <;> rfl
@[simp] theorem State.writeResult_carry (r : FrameResult) : (s.writeResult r).carry = s.carry := by
  unfold State.writeResult; split <;> rfl
@[simp] theorem State.writeResult_phase (r : FrameResult) : (s.writeResult r).phase = s.phase := by
  unfold State.writeResult; split <;> rfl
@[simp] theorem State.writeResult_win (r : FrameResult) : (s.writeResult r).win = s.win := by
  unfold State.writeResult; split <;> rfl
@[simp] theorem State.writeResult_pending (r : FrameResult) : (s.writeResult r).pending = s.pending := by
  unfold State.writeResult; split <;> rfl
@[simp] theorem State.writeResult_resp (r : FrameResult) : (s.writeResult r).resp = s.resp := by
  unfold State.writeResult; split <;> rfl
@[simp] theorem State.writeResult_arithmetic (r : FrameResult) : (s.writeResult r).arithmetic = s.arithmetic := by
  unfold State.writeResult; split <;> rfl

@[simp] theorem State.writeResult_lastCode (r : FrameResult) : (s.writeResult r).lastCode = r.code := by
  unfold State.writeResult; split <;> rfl
@[simp] theorem State.writeResult_lastCw (r : FrameResult) :
    (s.writeResult r).lastCw = if r.code.hasCodeword then r.cw else 0 := by
  unfold State.writeResult; split <;> rfl
theorem State.writeResult_mbValid (r : FrameResult) :
    (s.writeResult r).mbValid = (r.payload.isSome || s.mbValid) := by
  unfold State.writeResult; split <;> simp_all
theorem State.writeResult_mbPayload (r : FrameResult) :
    (s.writeResult r).mbPayload = r.payload.getD s.mbPayload := by
  unfold State.writeResult; split <;> simp_all

@[simp] theorem State.withFetchWord_pending (n w : Nat) :
    (s.withFetchWord n w).pending = .txn ⟨.host, requestOfTableWord w, false⟩ :: s.pending := rfl

end Sys2Proof.Machine
end

