-- ==== Sys2Proof/Laws/Frame.lean ====
section
/-! SUPPORT. What FrameComplete, Handoff and PUSH can do: one lemma per case of the rule and one for what
stays unchanged. -/

namespace Sys2Proof.Machine

variable (s : State)

/-! ### FrameComplete -/

@[simp] theorem State.frameComplete_session : s.frameComplete.session = s.session := by
  simp [State.frameComplete]
@[simp] theorem State.frameComplete_decodeEn : s.frameComplete.decodeEn = s.decodeEn := by
  simp [State.frameComplete]
@[simp] theorem State.frameComplete_thresh : s.frameComplete.thresh = s.thresh := by
  simp [State.frameComplete]
@[simp] theorem State.frameComplete_carry : s.frameComplete.carry = s.carry := by
  simp [State.frameComplete]
@[simp] theorem State.frameComplete_phase : s.frameComplete.phase = .scan := rfl
@[simp] theorem State.frameComplete_win : s.frameComplete.win = [] := rfl
@[simp] theorem State.frameComplete_pending : s.frameComplete.pending = s.pending := by
  simp [State.frameComplete]
@[simp] theorem State.frameComplete_resp : s.frameComplete.resp = s.resp := by
  simp [State.frameComplete]
@[simp] theorem State.frameComplete_arithmetic :
    s.frameComplete.arithmetic = s.arithmetic := by
  simp [State.frameComplete]
@[simp] theorem State.frameComplete_lastCode :
    s.frameComplete.lastCode = (frameDecode s.numerics s.win s.thresh).code := by
  simp [State.frameComplete]

/-- A publish writes a payload of 9 bits, so the mailbox stays legal (10_state.md R44). -/
theorem State.frameComplete_payload_le (h : s.mbValid = false ∨ s.mbPayload.toNat ≤ 511) :
    s.frameComplete.mbValid = false ∨ s.frameComplete.mbPayload.toNat ≤ 511 := by
  simp only [State.frameComplete, State.emptyWindow_mbValid, State.emptyWindow_mbPayload,
    State.writeResult_mbValid, State.writeResult_mbPayload]
  cases hp : (frameDecode s.numerics s.win s.thresh).payload with
  | none => simpa using h
  | some p => exact .inr (frameDecode_payload hp).2

theorem State.completeIfFull_of_ne (h : s.win.length ≠ Config.winLen) :
    s.completeIfFull = s := by
  simp only [State.completeIfFull, if_neg h]

theorem State.completeIfFull_of_eq (h : s.win.length = Config.winLen) :
    s.completeIfFull = s.frameComplete := by
  simp only [State.completeIfFull, if_pos h]

theorem Phase.scan_or_accum (p : Phase) : p = .scan ∨ p = .accum := by cases p <;> simp

/-! ### Handoff -/

variable (x : Sample)

theorem State.handoff_disabled (h : s.decodeEn = false) : s.handoff x = s := by
  simp [State.handoff, h]

theorem State.handoff_quiet (he : s.decodeEn = true) (hp : s.phase = .scan)
    (hq : probeStarts s.thresh (probeOf x s.carry) = false) : s.handoff x = s := by
  simp [State.handoff, he, hp, hq]

theorem State.handoff_start (he : s.decodeEn = true) (hp : s.phase = .scan)
    (hq : probeStarts s.thresh (probeOf x s.carry) = true) :
    s.handoff x = { s with phase := .accum, win := [x] } := by
  simp only [State.handoff, he, hp, hq, Bool.true_eq_false, if_false, if_true]
  exact State.completeIfFull_of_ne _ (by simp)

theorem State.handoff_append (he : s.decodeEn = true) (hp : s.phase = .accum)
    (hl : s.win.length + 1 ≠ Config.winLen) :
    s.handoff x = { s with win := s.win ++ [x] } := by
  simp only [State.handoff, he, hp, Bool.true_eq_false, if_false]
  exact State.completeIfFull_of_ne _ (by simpa using hl)

theorem State.handoff_complete (he : s.decodeEn = true) (hp : s.phase = .accum)
    (hl : s.win.length + 1 = Config.winLen) :
    s.handoff x = { s with win := s.win ++ [x] }.frameComplete := by
  simp only [State.handoff, he, hp, Bool.true_eq_false, if_false]
  exact State.completeIfFull_of_eq _ (by simpa using hl)

/-- Everything a handoff can do: nothing, start a window, append to it, or complete it. -/
theorem State.handoff_cases :
    s.handoff x = s ∨
    (s.decodeEn = true ∧ s.phase = .scan ∧ probeStarts s.thresh (probeOf x s.carry) = true ∧
      s.handoff x = { s with phase := .accum, win := [x] }) ∨
    (s.decodeEn = true ∧ s.phase = .accum ∧ s.win.length + 1 ≠ Config.winLen ∧
      s.handoff x = { s with win := s.win ++ [x] }) ∨
    (s.decodeEn = true ∧ s.phase = .accum ∧ s.win.length + 1 = Config.winLen ∧
      s.handoff x = { s with win := s.win ++ [x] }.frameComplete) := by
  rcases Bool.eq_false_or_eq_true s.decodeEn with he | he
  · rcases s.phase.scan_or_accum with hp | hp
    · rcases Bool.eq_false_or_eq_true (probeStarts s.thresh (probeOf x s.carry)) with hq | hq
      · exact .inr (.inl ⟨he, hp, hq, s.handoff_start x he hp hq⟩)
      · exact .inl (s.handoff_quiet x he hp hq)
    · by_cases hl : s.win.length + 1 = Config.winLen
      · exact .inr (.inr (.inr ⟨he, hp, hl, s.handoff_complete x he hp hl⟩))
      · exact .inr (.inr (.inl ⟨he, hp, hl, s.handoff_append x he hp hl⟩))
  · exact .inl (s.handoff_disabled x he)

@[simp] theorem State.handoff_session : (s.handoff x).session = s.session := by
  rcases s.handoff_cases x with h | ⟨_, _, _, h⟩ | ⟨_, _, _, h⟩ | ⟨_, _, _, h⟩ <;> simp [h]
@[simp] theorem State.handoff_decodeEn : (s.handoff x).decodeEn = s.decodeEn := by
  rcases s.handoff_cases x with h | ⟨_, _, _, h⟩ | ⟨_, _, _, h⟩ | ⟨_, _, _, h⟩ <;> simp [h]
@[simp] theorem State.handoff_thresh : (s.handoff x).thresh = s.thresh := by
  rcases s.handoff_cases x with h | ⟨_, _, _, h⟩ | ⟨_, _, _, h⟩ | ⟨_, _, _, h⟩ <;> simp [h]
@[simp] theorem State.handoff_carry : (s.handoff x).carry = s.carry := by
  rcases s.handoff_cases x with h | ⟨_, _, _, h⟩ | ⟨_, _, _, h⟩ | ⟨_, _, _, h⟩ <;> simp [h]
@[simp] theorem State.handoff_pending : (s.handoff x).pending = s.pending := by
  rcases s.handoff_cases x with h | ⟨_, _, _, h⟩ | ⟨_, _, _, h⟩ | ⟨_, _, _, h⟩ <;> simp [h]
@[simp] theorem State.handoff_arithmetic :
    (s.handoff x).arithmetic = s.arithmetic := by
  rcases s.handoff_cases x with h | ⟨_, _, _, h⟩ | ⟨_, _, _, h⟩ | ⟨_, _, _, h⟩ <;> simp [h]

/-! ### PUSH -/

theorem State.acceptSample_short (h : s.carry.length < Config.carryLen) :
    s.acceptSample x = { s with carry := s.carry ++ [x] } := by
  unfold State.acceptSample
  split
  · rename_i h'; simp at h'
  · rename_i o k h'
    have hl : (o :: k).length = s.carry.length + 1 := by rw [← h']; simp
    rw [if_neg (by omega)]
    simp [h']

theorem State.acceptSample_full {o : Sample} {k : List Sample} (hc : s.carry = o :: k)
    (h : Config.carryLen ≤ s.carry.length) :
    s.acceptSample x = { s with carry := k ++ [x] }.handoff o := by
  unfold State.acceptSample
  simp only [hc, List.cons_append]
  rw [if_pos]
  simp [hc] at h ⊢
  omega

theorem State.pushSample_idle (h : s.session = false) : s.pushSample x = s := by
  simp [State.pushSample, h]

theorem State.pushSample_session (h : s.session = true) : s.pushSample x = s.acceptSample x := by
  simp [State.pushSample, h]

/-- Everything PUSH can do to the block: nothing outside a session, fill the carry, or hand off. -/
theorem State.pushSample_cases :
    (s.session = false ∧ s.pushSample x = s) ∨
    (s.session = true ∧ s.carry.length < Config.carryLen ∧
      s.pushSample x = { s with carry := s.carry ++ [x] }) ∨
    (s.session = true ∧ ∃ o k, s.carry = o :: k ∧ Config.carryLen ≤ s.carry.length ∧
      s.pushSample x = { s with carry := k ++ [x] }.handoff o) := by
  rcases Bool.eq_false_or_eq_true s.session with hs | hs
  · by_cases hl : s.carry.length < Config.carryLen
    · refine .inr (.inl ⟨hs, hl, ?_⟩)
      rw [s.pushSample_session x hs, s.acceptSample_short x hl]
    · rcases hc : s.carry with - | ⟨o, k⟩
      · simp [hc] at hl
      · refine .inr (.inr ⟨hs, o, k, rfl, by rw [← hc]; omega, ?_⟩)
        rw [s.pushSample_session x hs, s.acceptSample_full x hc (by omega)]
  · exact .inl ⟨hs, s.pushSample_idle x hs⟩

@[simp] theorem State.pushSample_session_eq : (s.pushSample x).session = s.session := by
  rcases s.pushSample_cases x with ⟨_, h⟩ | ⟨_, _, h⟩ | ⟨_, o, k, _, _, h⟩ <;> simp [h]
@[simp] theorem State.pushSample_decodeEn : (s.pushSample x).decodeEn = s.decodeEn := by
  rcases s.pushSample_cases x with ⟨_, h⟩ | ⟨_, _, h⟩ | ⟨_, o, k, _, _, h⟩ <;> simp [h]
@[simp] theorem State.pushSample_thresh : (s.pushSample x).thresh = s.thresh := by
  rcases s.pushSample_cases x with ⟨_, h⟩ | ⟨_, _, h⟩ | ⟨_, o, k, _, _, h⟩ <;> simp [h]
@[simp] theorem State.pushSample_pending : (s.pushSample x).pending = s.pending := by
  rcases s.pushSample_cases x with ⟨_, h⟩ | ⟨_, _, h⟩ | ⟨_, o, k, _, _, h⟩ <;> simp [h]
@[simp] theorem State.pushSample_arithmetic :
    (s.pushSample x).arithmetic = s.arithmetic := by
  rcases s.pushSample_cases x with ⟨_, h⟩ | ⟨_, _, h⟩ | ⟨_, o, k, _, _, h⟩ <;> simp [h]

end Sys2Proof.Machine
end

