-- ==== Sys2Proof/Laws/Numerics.lean ====
section
/-! SUPPORT. What the reference instance of NUMERICS is, what the open parameter promises, and what Classify
answers in a lawful arithmetic. -/

namespace Sys2Proof.Machine

/-- The open parameter meets what 43_correlator.md R168 asks of it. -/
theorem State.numerics_parameter {s : State} (h : s.arithmetic = .parameter) :
    s.numerics.Lawful Config.numerics.bound := by
  unfold State.numerics
  rw [h]
  exact Config.numerics.lawful

theorem State.numerics_fixedPoint {s : State} (h : s.arithmetic = .fixedPoint) :
    s.numerics = .fixedPoint := by
  unfold State.numerics
  rw [h]

@[simp] theorem Numerics.reference_coherent (x y : ℝ) :
    Numerics.reference.coherent x y = true ↔ (Config.cohThresh : ℝ) < x + y := by
  simp [Numerics.reference]

@[simp] theorem Numerics.reference_above (x y : ℝ) :
    Numerics.reference.above x y = true ↔ y < x := by
  simp [Numerics.reference]

/-- The value at an index of the reference's profile is the exact energy. -/
theorem Numerics.reference_energy {w : List Sample} {t : BitVec 16} {f : Tone} {i : Nat} {x : ℝ}
    (h : (Numerics.reference.energy (Numerics.reference.agc w t) f)[i]? = some x) :
    x = Reference.windowEnergy w t f i := by
  change ((List.range _).map (Reference.energy (Machine.agc w t) f))[i]? = some x at h
  obtain ⟨j, hj, rfl⟩ := by simpa only [List.getElem?_map, Option.map_eq_some_iff] using h
  obtain ⟨-, rfl⟩ := by simpa only [List.getElem?_eq_some_iff, List.getElem_range] using hj
  rfl

/-- The reference instance meets every error bound, 0 among them (43_correlator.md R168). -/
theorem Numerics.reference_lawful (b : ℝ) : Numerics.reference.Lawful (some b) where
  agc_length w t := by
    change (agcReal _ _).length = _
    rw [agcReal_length, List.length_map]
  energy_length a f := by
    change ((List.range _).map (Reference.energy a f)).length = _
    rw [List.length_map, List.length_range]
    rfl
  coherent_iff _ _ w t i x y _ hx hy _ := by
    rw [Numerics.reference_energy hx, Numerics.reference_energy hy]
    exact Numerics.reference_coherent _ _
  above_iff _ _ w t i x y _ hx hy _ := by
    rw [Numerics.reference_energy hx, Numerics.reference_energy hy]
    exact ⟨Numerics.reference_above _ _, Numerics.reference_above _ _⟩

/-! ### Classify -/

/-- A classification is as long as its window. -/
theorem classifyWindow_length {N : Numerics} {b : Option ℝ} (h : N.Lawful b) (w : List Sample)
    (t : BitVec 16) : (classifyWindow N w t).length = w.length := by
  simp [classifyWindow, classify, h.energy_length, h.agc_length]

/-- The class at an index is that of the two energies at the index. -/
theorem classifyWindow_getElem? {N : Numerics} {w : List Sample} {t : BitVec 16} {i : Nat}
    {x y : N.Energy} (hx : (N.energy (N.agc w t) .a)[i]? = some x)
    (hy : (N.energy (N.agc w t) .b)[i]? = some y) :
    (classifyWindow N w t)[i]? = some (classifyAt N x y) := by
  simp [classifyWindow, classify, List.getElem?_zipWith, hx, hy]

/-- Every index of a window has its two energies. -/
theorem Numerics.Lawful.energies {N : Numerics} {b : Option ℝ} (h : N.Lawful b) {w : List Sample}
    {i : Nat} (t : BitVec 16) (hi : i < w.length) :
    ∃ x y, (N.energy (N.agc w t) .a)[i]? = some x ∧ (N.energy (N.agc w t) .b)[i]? = some y := by
  have hl (f : Tone) : i < (N.energy (N.agc w t) f).length := by
    rwa [h.energy_length, h.agc_length]
  exact ⟨_, _, List.getElem?_eq_getElem (hl .a), List.getElem?_eq_getElem (hl .b)⟩

end Sys2Proof.Machine
end

