-- ==== Sys2Proof/Laws/PerInstr.lean ====
section
/-! SUPPORT. Statements made per operation. -/

namespace Sys2Proof.Laws.EncodesLegally

/-- The encoding of an operation is a well-formed request: a legal selector, and no data word on a read
(30_encoding.md R71, R74). -/
def Statement (i : Instr) : Prop := (encode i).wellFormed = true

theorem regWrite_wellFormed {off : Offset} (h : (regWrite off 0).wellFormed = true) (w : Word) :
    (regWrite off w).wellFormed = true := by
  simpa [Request.wellFormed, Request.legal, Request.aligned, Request.mapped, Request.accessAllowed,
    Request.readDataZero, Request.isWrite, Request.off, regWrite] using h

theorem push (w : Word) : Statement (.push w) := regWrite_wellFormed (by decide) w
theorem wrCtrl (w : Word) : Statement (.wrCtrl w) := regWrite_wellFormed (by decide) w
theorem rdCtrl : Statement .rdCtrl := rfl
theorem wrCmd (w : Word) : Statement (.wrCmd w) := regWrite_wellFormed (by decide) w
theorem rdStatus : Statement .rdStatus := rfl
theorem wrThresh (w : Word) : Statement (.wrThresh w) := regWrite_wellFormed (by decide) w
theorem rdThresh : Statement .rdThresh := rfl
theorem rdResult : Statement .rdResult := rfl
theorem rdLast : Statement .rdLast := rfl
theorem rdVersion : Statement .rdVersion := rfl
theorem rdBuildDate : Statement .rdBuildDate := rfl

end Sys2Proof.Laws.EncodesLegally
end

