-- ==== Sys2Proof/Tests/Slice0.lean ====
section
/-! SUPPORT. Tests of the model against 95_test_vectors.md and the rules' own examples, and for each statement with
hypotheses a witness that meets them. Every expected value is the spec's. -/

namespace Sys2Proof.Tests

open Sys2Proof.Machine Sys2Proof.Safety

/-- The next state of an outcome. -/
def after : Host.Outcome State Fault Refusal → Option State
  | .next s => some s
  | _ => none

/-- The data an operation reads in a state. -/
def reads (i : Instr) (s : State) : Option Response := (after (exec i s)).map State.resp

/-- A session with decoding enabled and a full carry of zeros, in the arithmetic that can be evaluated. -/
def live : State :=
  { State.reset with
    session := true, decodeEn := true, carry := List.replicate 32 0, arithmetic := .fixedPoint }

/-- The state with one transaction of the host pending. -/
def withTxn (s : State) (sel : Selector) (wdata : Word) (expects : Bool) : State :=
  { s with pending := [.txn ⟨.host, ⟨sel, wdata⟩, expects⟩] }

/-! ### Encoding (30_encoding.md R70, R74, R75) -/

theorem test_word_push : decodeTableWord 16 0b100000000 = some (.push 0) := by decide
theorem test_word_wrCtrl : decodeTableWord 16 0b100000100 = some (.wrCtrl 0) := by decide
theorem test_word_rdCtrl : decodeTableWord 16 0b000000100 = some .rdCtrl := by decide
theorem test_word_wrCmd : decodeTableWord 16 0b100001000 = some (.wrCmd 0) := by decide
theorem test_word_rdStatus : decodeTableWord 16 0b000001100 = some .rdStatus := by decide
theorem test_word_wrThresh : decodeTableWord 16 0b100010000 = some (.wrThresh 0) := by decide
theorem test_word_rdThresh : decodeTableWord 16 0b000010000 = some .rdThresh := by decide
theorem test_word_rdResult : decodeTableWord 16 0b000010100 = some .rdResult := by decide
theorem test_word_rdLast : decodeTableWord 16 0b000011000 = some .rdLast := by decide
theorem test_word_rdVersion : decodeTableWord 16 0b000011100 = some .rdVersion := by decide
theorem test_word_rdBuildDate : decodeTableWord 16 0b000100000 = some .rdBuildDate := by decide

/-- The illegal lines of program P1 and V-REG-9, by name. -/
theorem test_illegal_named :
    decode ⟨0x000#9, 0⟩ = .error .writeOnly ∧ decode ⟨0x008#9, 0⟩ = .error .writeOnly ∧
    decode ⟨0x10C#9, 1⟩ = .error .readOnly ∧ decode ⟨0x114#9, 0⟩ = .error .readOnly ∧
    decode ⟨0x00E#9, 0⟩ = .error .misaligned ∧ decode ⟨0x022#9, 0⟩ = .error .misaligned ∧
    decode ⟨0x024#9, 0⟩ = .error .unmapped ∧ decode ⟨0x1FC#9, 0⟩ = .error .unmapped :=
  ⟨rfl, rfl, rfl, rfl, rfl, rfl, rfl, rfl⟩

theorem test_bits_above_selector_refused : decodeTableWord 16 0x300 = none := by decide

/-- R71: the encoder's selectors are those of R74's table. -/
theorem test_encode_words :
    encode (.push 5) = ⟨0x100#9, 5⟩ ∧ encode .rdStatus = ⟨0x00C#9, 0⟩ ∧
    encode (.wrCmd 1) = ⟨0x108#9, 1⟩ ∧ encode (.wrCtrl 1) = ⟨0x104#9, 1⟩ ∧
    encode (.wrThresh 512) = ⟨0x110#9, 512⟩ ∧ encode .rdResult = ⟨0x014#9, 0⟩ := by decide

/-! WellFormed: each check refuses an ill-formed request. -/

theorem test_wf_good : (Request.mk 0x100#9 7).wellFormed = true := by decide
theorem test_wf_misaligned : (Request.mk 0x102#9 7).aligned = false := by decide
theorem test_wf_unmapped : (Request.mk 0x024#9 0).mapped = false := by decide
theorem test_wf_access : (Request.mk 0x008#9 0).accessAllowed = false := by decide
theorem test_wf_read_data : (Request.mk 0x00C#9 1).readDataZero = false := by decide
theorem test_wf_refuses :
    (Request.mk 0x102#9 7).wellFormed = false ∧ (Request.mk 0x024#9 0).wellFormed = false ∧
    (Request.mk 0x008#9 0).wellFormed = false ∧ (Request.mk 0x00C#9 1).wellFormed = false := by
  decide

/-! ### Step -/

/-- Program P1: RD THRESH from reset reads 0x00000400. -/
theorem test_step_reads_thresh :
    (after (step (State.reset.withFetchWord 16 0x010))).map State.resp =
      some (.rdata 0x00000400#32) := by decide

/-- Program P1: a bus error changes nothing but the response. -/
theorem test_step_expected_error :
    (after (step (withTxn State.reset 0x024#9 0 true))) =
      some { State.reset with resp := .error } := by decide

/-- A program that does not expect the error response stops (93_implementation_defined.md I5). -/
theorem test_step_bus_error : step (withTxn State.reset 0x10C#9 1 false) = .fault (.busError 0x0C#8) :=
  rfl

/-- R280: reset clears a session, a window and a pending result. -/
theorem test_step_reset :
    after (step { live with
      phase := .accum, win := [5], mbValid := true, mbPayload := 3, thresh := 7
      lastCode := .ok, lastCw := 0x6A5A, pending := [.reset] }) =
      some { State.reset with arithmetic := .fixedPoint } := by decide

/-! ### Host registers (95_test_vectors.md section 2.8, program P1) -/

/-- P1: WR CTRL, 0xFFFFFFFF then RD CTRL reads 1. -/
theorem test_wrCtrl_reserved_bits :
    ((after (exec (.wrCtrl 0xFFFFFFFF#32) State.reset)).bind (reads .rdCtrl)) =
      some (.rdata 1#32) := by decide

/-- V-REG-4: disabling decode abandons the window and keeps the carry. -/
theorem test_wrCtrl_abandons_window :
    ((after (exec (.wrCtrl 0) { live with phase := .accum, win := List.replicate 500 9 })).bind
      (reads .rdStatus)) = some (.rdata 0x00002002#32) := by decide +kernel

/-- P1: WR CMD, 0x3 is a START. -/
theorem test_wrCmd_start_wins :
    ((after (exec (.wrCmd 3) State.reset)).bind (reads .rdStatus)) =
      some (.rdata 0x00000002#32) := by decide

/-- V-REG-6 and R224: STOP discards the carry and keeps the mailbox. -/
theorem test_wrCmd_stop_keeps_mailbox :
    after (exec (.wrCmd 2) { live with mbValid := true, mbPayload := 0x155 }) =
      some { live with
        session := false, carry := [], mbValid := true, mbPayload := 0x155, resp := .okay } := by
  decide

/-- R225's example. -/
theorem test_rdStatus_example :
    reads .rdStatus { live with mbValid := true } = some (.rdata 0x00002007#32) := by decide

/-- Program P2: a window of 1101 samples. -/
theorem test_rdStatus_window :
    reads .rdStatus { live with phase := .accum, win := List.replicate 1101 0 } =
      some (.rdata 0x044D200E#32) := by decide +kernel

/-- P1: WR THRESH, 0x00010200 sets 0x0200. -/
theorem test_wrThresh_low_half :
    ((after (exec (.wrThresh 0x00010200#32) State.reset)).bind (reads .rdThresh)) =
      some (.rdata 0x00000200#32) := by decide

/-- V-REG-3: a payload of 0 is told apart from nothing pending. -/
theorem test_rdResult_zero_payload :
    reads .rdResult { live with mbValid := true } = some (.rdata 0x80000000#32) ∧
    ((after (exec .rdResult { live with mbValid := true })).bind (reads .rdResult)) =
      some (.rdata 0#32) := by decide

/-- R230's example. -/
theorem test_rdLast_example :
    reads .rdLast { live with lastCode := .trailer, lastCw := 0x2A5A#15 } =
      some (.rdata 0x2A5A0006#32) := by decide

theorem test_rdVersion_open : reads .rdVersion live = some (.rdata Config.versionId) := rfl
theorem test_rdBuildDate_open : reads .rdBuildDate live = some (.rdata Config.buildDate) := rfl

/-! ### PUSH and the detector (95_test_vectors.md sections 2.1 and 2.2) -/

/-- V-PUSH-1. -/
theorem test_push_outside_session :
    after (exec (.push 5) State.reset) = some { State.reset with resp := .okay } := by decide

/-- V-PUSH-4, V-PUSH-5, V-PUSH-6. -/
theorem test_push_sample_values :
    sampleValue (sampleOf 0x00008000#32) = -32768 ∧ sampleValue (sampleOf 0xFFFF7FFF#32) = 32767 ∧
    sampleValue (sampleOf 0x12340005#32) = 5 := by decide

/-- V-PUSH-3: the 33rd PUSH hands off the oldest, discarded while decoding is disabled. -/
theorem test_push_hands_off :
    after (exec (.push 7) { live with decodeEn := false }) =
      some { live with
        decodeEn := false, carry := List.replicate 31 0 ++ [7], resp := .okay } := by decide

/-- V-DET-1 at the probe of s_10, and V-DET-5 (1024 does not exceed 1024). -/
theorem test_probe_counts :
    probeStarts 1024#16 [0, 1025, 1025, 1025, 1025] = true ∧
    probeStarts 1024#16 [1025, 1025, 0, 1025, 1025] = true ∧
    probeStarts 1024#16 [1024, 1025, 1025, 1025, 0] = false := by decide

/-- V-DET-6, V-DET-7, V-DET-9, V-DET-10: magnitudes in Z. -/
theorem test_probe_magnitudes :
    probeStarts 1024#16 [0, -1025, 1025, -1025, 1025] = true ∧
    probeStarts 1024#16 [-32768, -32768, -32768, 0, 0] = false ∧
    probeStarts 32768#16 [-32768, -32768, -32768, -32768, -32768] = false ∧
    probeStarts 32767#16 [0, -32768, -32768, -32768, -32768] = true := by decide

/-- R120's example: the window starts at the silent sample before the burst. -/
theorem test_handoff_example :
    ({ live with carry := [-1025, 1025, -1025, 1025] ++ List.replicate 28 0 }.handoff 0) =
      { live with
        carry := [-1025, 1025, -1025, 1025] ++ List.replicate 28 0, phase := .accum, win := [0] } := by
  decide

/-! ### AGC (95_test_vectors.md section 2.3) -/

/-- V-AGC-1. -/
theorem test_agc_worked_example :
    agc [0, 2000, 1000, -500, -600, 3] 1024#16 = [0, 32768, 16384, -500, -600, 3] := by
  decide +kernel

/-- V-AGC-2, V-AGC-3: strict. -/
theorem test_agc_strict :
    agc [0, 1024, -1, 0] 1024#16 = [0, 1024, -1, 0] ∧
    agc [0, 1025, -1, 0] 1024#16 = [0, 32768, -1, 0] := by decide +kernel

/-- V-AGC-6: zero counts with the non-negative samples. -/
theorem test_agc_zero_sign :
    agc [5, 0, -3, 4, 0] 0#16 = [32768, 0, -32768, 4, 0] := by decide +kernel

/-- V-AGC-8, V-AGC-11. -/
theorem test_agc_full_scale :
    agc [-32768, 1, -32767, 0] 1024#16 = [-32768, 1, -32768, 0] ∧
    agc [-3000, -3000, 0] 1024#16 = [-32768, -32768, 0] := by decide +kernel

/-! ### Classify, Assemble, Strip (sections 2.5 and 2.6) -/

/-- The class of a pair of whole energies. -/
def classOf (ea eb : Nat) : ToneClass :=
  classifyAt .fixedPoint (ea * energyOne : Nat) (eb * energyOne : Nat)

/-- V-CLS-1 to V-CLS-10 (the last rounded to whole energies), the sum of 4096 and the tie among them. -/
theorem test_classify_vectors :
    classOf 4097 0 = .toneA ∧ classOf 0 4097 = .toneB ∧ classOf 4096 0 = .ambiguous ∧
    classOf 2048 2048 = .ambiguous ∧ classOf 2049 2048 = .toneA ∧ classOf 3000 3000 = .ambiguous ∧
    classOf 1000 3200 = .toneB ∧ classOf 1000 3000 = .ambiguous ∧ classOf 5000 0 = .toneA ∧
    classOf 16481 1994 = .toneA := by
  decide +kernel

/-- R180's corner cases (a) and (c) in the exact reference: a sum of 4096 and a tie. -/
theorem test_reference_corners :
    classifyAt .reference (4096 : ℝ) (0 : ℝ) = .ambiguous ∧
    classifyAt .reference (3000 : ℝ) (3000 : ℝ) = .ambiguous := by
  constructor
  · have h : ¬ Numerics.reference.coherent (4096 : ℝ) (0 : ℝ) = true := by
      rw [Numerics.reference_coherent]; norm_num
    simp [classifyAt, h]
  · have h : ¬ Numerics.reference.above (3000 : ℝ) (3000 : ℝ) = true := by
      rw [Numerics.reference_above]; norm_num
    simp [classifyAt, h]

/-- Pattern(cw, o) of section 2.6. -/
def pattern (cw : Nat) (o : Nat) : List ToneClass :=
  List.replicate o .ambiguous ++
    ((List.range 15).flatMap (fun k => List.replicate 54 (toneOf (cw.testBit k)))) ++
    List.replicate (292 - o) .ambiguous

/-- V-ASM-2, V-ASM-3, V-ASM-4. -/
theorem test_assemble_origins :
    decodeClasses (pattern 0x6A5A 0) = ⟨.ok, 0x6A5A, some 0x155⟩ ∧
    decodeClasses (pattern 0x6A5A 292) = ⟨.ok, 0x6A5A, some 0x155⟩ ∧
    decodeClasses (pattern 0x6A5A 293) = ⟨.truncated, 0, none⟩ := by decide +kernel

/-- V-ASM-1, V-ASM-9, V-ASM-10, V-ASM-11. -/
theorem test_assemble_failures :
    decodeClasses (List.replicate 1102 .ambiguous) = ⟨.noSignal, 0, none⟩ ∧
    decodeClasses (pattern 0x6A5B 0) = ⟨.header, 0x6A5B, none⟩ ∧
    decodeClasses (pattern 0x2A5A 0) = ⟨.trailer, 0x2A5A, none⟩ ∧
    decodeClasses (pattern 0x2A5B 0) = ⟨.header, 0x2A5B, none⟩ := by decide +kernel

/-- Interval 5 of Pattern(0x6A5A, 0) replaced. -/
def withInterval5 (v : List ToneClass) : List ToneClass :=
  (pattern 0x6A5A 0).take 270 ++ v ++ (pattern 0x6A5A 0).drop 324

/-- V-ASM-5, V-ASM-6, V-ASM-7, V-ASM-8. -/
theorem test_assemble_votes :
    decodeClasses (withInterval5 (List.replicate 27 .toneA ++ List.replicate 27 .toneB)) =
      ⟨.bitAmbig, 0, none⟩ ∧
    decodeClasses (withInterval5 (List.replicate 28 .toneA ++ List.replicate 26 .toneB)) =
      ⟨.ok, 0x6A5A, some 0x155⟩ ∧
    decodeClasses (withInterval5 (List.replicate 26 .toneA ++ List.replicate 28 .toneB)) =
      ⟨.parity, 0x6A7A, none⟩ ∧
    decodeClasses (withInterval5 (List.replicate 27 .toneA ++ List.replicate 27 .ambiguous)) =
      ⟨.bitAmbig, 0, none⟩ := by decide +kernel

/-- The strip vectors of section 2.6. -/
theorem test_strip_vectors :
    strip 0x6A5A = 0x152D#13 ∧ strip 0x4116 = 0x008B#13 ∧ strip 0x7FFE = 0x1FFF#13 ∧
    strip 0x4000 = 0#13 ∧ strip 0x7FFF = 0x1FFF#13 := by decide

/-! ### Decoder (section 2.7) -/

/-- V-ECC-1. -/
theorem test_ecc_payloads :
    eccDecode 0x008B = 0x000#16 ∧ eccDecode 0x008C = 0x001#16 ∧ eccDecode 0x0AD3 = 0x0AA#16 ∧
    eccDecode 0x0F83 = 0x0F0#16 ∧ eccDecode 0x1002 = 0x100#16 ∧ eccDecode 0x12E1 = 0x12C#16 ∧
    eccDecode 0x152D = 0x155#16 ∧ eccDecode 0x1F75 = 0x1FF#16 := by decide

/-- V-ECC-3. -/
theorem test_ecc_failures :
    eccDecode 0x152C = 0xFFFF#16 ∧ eccDecode 0x152F = 0xFFFF#16 ∧ eccDecode 0 = 0xFFFF#16 ∧
    eccDecode 0x1FFF = 0xFFFF#16 := by decide

/-- V-ECC-1's codewords by the test-only encoder. -/
theorem test_ecc_encoder :
    encodeCodeword 0x000 = 0x4116#15 ∧ encodeCodeword 0x0AA = 0x55A6#15 ∧
    encodeCodeword 0x155 = 0x6A5A#15 ∧ encodeCodeword 0x1FF = 0x7EEA#15 ∧
    encodeCodeword 0x12C = 0x65C2#15 := by decide

/-! ### Correlator and the end-to-end vector (sections 2.0, 2.4, program P3) -/

theorem test_fixOne : fixOne = 2 ^ 64 := by decide

/-- One period of `round(amp * sin(2*pi*25*m/441))`, m counting down from `n` (section 2.0). -/
def tonePeriod (amp : Int) : Nat → Phasor → List Sample
  | 0, _ => []
  | n + 1, z =>
    BitVec.ofInt 16 ((2 * amp * z.2 + (fixOne : Int)) / (2 * (fixOne : Int))) ::
      tonePeriod amp n (rotate (phasorStep .a) z)

/-- FRAME of a codeword from sample `n` on, `wave` the samples from the phase index on (section 2.0): the
index advances by 1 in a bit 0 and by 2 in a bit 1. -/
def frameFrom (cw : Nat) : Nat → Nat → List Sample → List Sample
  | k + 1, n, x :: wave =>
    x :: frameFrom cw k (n + 1) (if cw.testBit (n / 54) then wave.drop 1 else wave)
  | _, _, _ => []

/-- Program P3's window: FRAME(0x155, 16000) and 292 zeros. -/
def windowP3 : List Sample :=
  frameFrom 0x6A5A 810 0 (List.replicate 4 (tonePeriod 16000 441 ((fixOne : Int), 0))).flatten ++
    List.replicate 292 0

/-- The generator's check of section 2.0: the first 16 samples and the sum. -/
theorem test_frame_generator :
    (windowP3.take 16).map sampleValue =
      [0, 5579, 10458, 14024, 15830, 15648, 13502, 9661, 4607, -1025, -6529, -11213, -14489, -15946,
        -15402, -12924] ∧
    (windowP3.map sampleValue).sum = 30854 := by decide +kernel

/-- Program P3 before its 1234th PUSH: 1101 samples accumulated, the window's last one the oldest of the
carry. -/
def beforeP3 : State :=
  { live with phase := .accum, win := windowP3.take 1101 }

/-- The classification of program P3's window as runs. -/
def classesP3 : List ToneClass :=
  [(54, ToneClass.toneA), (54, .toneB), (55, .toneA), (107, .toneB), (54, .toneA), (54, .toneB),
    (109, .toneA), (54, .toneB), (54, .toneA), (53, .toneB), (54, .toneA), (114, .toneB),
    (286, .ambiguous)].flatMap (fun r => List.replicate r.1 r.2)

/-- The runs have program P3's interval counts (nA, nB), and index 815 is the last that is not AMBIGUOUS. -/
theorem test_classesP3_counts :
    (List.range 15).map (fun k => ((interval classesP3 k).count .toneA,
      (interval classesP3 k).count .toneB)) =
      [(54, 0), (0, 54), (54, 0), (1, 53), (0, 54), (54, 0), (0, 54), (54, 0), (54, 0), (1, 53),
        (53, 1), (1, 53), (54, 0), (0, 54), (0, 54)] ∧
    classesP3.getD 815 .ambiguous = .toneB ∧ (classesP3.drop 816).all (· == .ambiguous) = true := by
  decide +kernel

/-- Part `k` of a classification: 138 indices, an eighth of the window. -/
def eighth (k : Nat) (c : List ToneClass) : List ToneClass := (c.drop (138 * k)).take 138

theorem eighths_ext (c d : List ToneClass) (hc : c.length ≤ 1104) (hd : d.length ≤ 1104)
    (h : ∀ k < 8, eighth k c = eighth k d) : c = d := by
  refine List.ext_getElem? fun i => ?_
  by_cases hi : i < 1104
  · have := congrArg (fun l => l[i % 138]?) (h (i / 138) (by omega))
    simpa [eighth, List.getElem?_take, List.getElem?_drop, Nat.mod_lt, Nat.div_add_mod] using this
  · rw [List.getElem?_eq_none (by omega), List.getElem?_eq_none (by omega)]

/-! The numeric pipeline on program P3's window, an eighth at a time. -/

theorem test_classify_P3_0 :
    eighth 0 (classifyWindow .fixedPoint windowP3 1024#16) = eighth 0 classesP3 := by decide +kernel
theorem test_classify_P3_1 :
    eighth 1 (classifyWindow .fixedPoint windowP3 1024#16) = eighth 1 classesP3 := by decide +kernel
theorem test_classify_P3_2 :
    eighth 2 (classifyWindow .fixedPoint windowP3 1024#16) = eighth 2 classesP3 := by decide +kernel
theorem test_classify_P3_3 :
    eighth 3 (classifyWindow .fixedPoint windowP3 1024#16) = eighth 3 classesP3 := by decide +kernel
theorem test_classify_P3_4 :
    eighth 4 (classifyWindow .fixedPoint windowP3 1024#16) = eighth 4 classesP3 := by decide +kernel
theorem test_classify_P3_5 :
    eighth 5 (classifyWindow .fixedPoint windowP3 1024#16) = eighth 5 classesP3 := by decide +kernel
theorem test_classify_P3_6 :
    eighth 6 (classifyWindow .fixedPoint windowP3 1024#16) = eighth 6 classesP3 := by decide +kernel
theorem test_classify_P3_7 :
    eighth 7 (classifyWindow .fixedPoint windowP3 1024#16) = eighth 7 classesP3 := by decide +kernel

/-- The whole numeric pipeline on program P3's window: no comparison of it is a draw. -/
theorem test_classify_P3 : classifyWindow .fixedPoint windowP3 1024#16 = classesP3 := by
  refine eighths_ext _ _ (by decide +kernel) (by decide +kernel) fun k hk => ?_
  interval_cases k
  exacts [test_classify_P3_0, test_classify_P3_1, test_classify_P3_2, test_classify_P3_3,
    test_classify_P3_4, test_classify_P3_5, test_classify_P3_6, test_classify_P3_7]

theorem beforeP3_window : beforeP3.win ++ [0] = windowP3 := by decide +kernel

/-- Program P3's window: OK, codeword 0x6A5A, payload 0x155. -/
theorem test_frameDecode_P3 : frameDecode .fixedPoint windowP3 1024#16 = ⟨.ok, 0x6A5A, some 0x155⟩ := by
  rw [frameDecode, test_classify_P3]
  decide +kernel

/-- Program P3 at its 1234th PUSH publishes the payload. -/
theorem test_program_P3 :
    after (exec (.push 0) beforeP3) =
      some { live with
        lastCode := .ok, lastCw := 0x6A5A, mbValid := true, mbPayload := 0x155, resp := .okay } := by
  have hc : beforeP3.carry = 0 :: List.replicate 31 0 := rfl
  have hw : (beforeP3.win ++ [0]).length = Config.winLen := by rw [beforeP3_window]; decide +kernel
  have hp : exec (.push 0) beforeP3 = .next ((beforeP3.pushSample 0).respond .okay) := rfl
  rw [hp, State.pushSample_session _ _ rfl, State.acceptSample_full _ _ hc (by decide),
    State.handoff_complete _ _ rfl rfl (by simpa using hw)]
  simp only [State.frameComplete, beforeP3_window]
  rw [show beforeP3.thresh = 1024#16 from rfl, State.numerics_fixedPoint,
    test_frameDecode_P3] <;> rfl

/-! ### Witnesses: for each statement with hypotheses, a case that meets them all -/

theorem witness_DecodeInvertsEncode :
    decode ⟨0x110#9, 512⟩ = .ok (.wrThresh 512) ∧ (Request.mk 0x110#9 512).isWrite = true :=
  ⟨rfl, rfl⟩

theorem witness_StepRunsDecodedTransaction :
    (withTxn live 0x100#9 7 false).pending = .txn ⟨.host, ⟨0x100#9, 7⟩, false⟩ :: [] ∧
    decode ⟨0x100#9, 7⟩ = .ok (.push 7) := ⟨rfl, rfl⟩

theorem witness_IdleStepChangesNothing : State.reset.pending = [] := rfl

theorem witness_IllegalSelectorRaisesBusError :
    (withTxn live 0x024#9 0 true).pending = .txn ⟨.host, ⟨0x024#9, 0⟩, true⟩ :: [] ∧
    (withTxn live 0x024#9 0 false).pending = .txn ⟨.host, ⟨0x024#9, 0⟩, false⟩ :: [] ∧
    decode ⟨0x024#9, 0⟩ = .error .unmapped := ⟨rfl, rfl, rfl⟩

theorem witness_ResetInputGivesResetValues :
    ({ live with pending := [.reset] } : State).pending = .reset :: [] := rfl

theorem witness_UnnamedWriteBitsAreIgnored :
    (0x12340003#32).extractLsb' 0 16 = (0x00000003#32).extractLsb' 0 16 ∧
    (0x12340003#32).getLsbD 0 = (0x00000003#32).getLsbD 0 ∧
    (0x12340003#32).getLsbD 1 = (0x00000003#32).getLsbD 1 := by decide

theorem witness_WrCtrlSetsDecodeEnable :
    (0xFFFFFFFF#32).getLsbD 0 = true ∧ (0xFFFFFFFE#32).getLsbD 0 = false := by decide

theorem witness_WrCmdStartsAndStops :
    (3#32).getLsbD 0 = true ∧ ((2#32).getLsbD 0 = false ∧ (2#32).getLsbD 1 = true) ∧
    ((4#32).getLsbD 0 = false ∧ (4#32).getLsbD 1 = false) := by decide

theorem witness_RdStatusShowsEveryField :
    ({ live with phase := .accum, win := List.replicate 1101 0 } : State).carry.length ≤ 32 ∧
    ({ live with phase := .accum, win := List.replicate 1101 0 } : State).win.length ≤ 1101 := by
  decide +kernel

theorem witness_RdResultTakesIfValid :
    ({ live with mbValid := true } : State).mbValid = true ∧ live.mbValid = false := ⟨rfl, rfl⟩

theorem witness_PlainReadsHaveNoSideEffect :
    Instr.rdBuildDate ∈ [Instr.rdStatus, .rdCtrl, .rdThresh, .rdLast, .rdVersion, .rdBuildDate] := by
  decide

/-- Each element does change under its writer. -/
theorem witness_EachElementHasItsOwnWriters :
    ((after (exec (.wrThresh 7) live)).map State.thresh ≠ some live.thresh) ∧
    ((after (exec (.wrCmd 2) live)).map State.session ≠ some live.session) ∧
    ((after (exec (.wrCtrl 0) live)).map State.decodeEn ≠ some live.decodeEn) ∧
    ((after (exec (.push 7) live)).map State.carry ≠ some live.carry) ∧
    ((after (exec (.wrCtrl 0) { live with phase := .accum, win := [1] })).map State.phase ≠
      some .accum) ∧
    ((after (exec .rdResult { live with mbValid := true })).map State.mbValid = some false) := by
  decide

/-- The clauses about the mailbox and the last outcome: PUSH sets them (test_program_P3). -/
theorem witness_EachElementHasItsOwnWriters_results :
    beforeP3.mbValid = false ∧ beforeP3.mbPayload ≠ 0x155 ∧ beforeP3.lastCode ≠ .ok ∧
    (after (exec (.push 0) beforeP3)).map (fun t => t.mbValid) = some true := by
  refine ⟨rfl, by decide, by decide, ?_⟩
  rw [test_program_P3]
  rfl

theorem witness_PushLeavesResultsUnlessWindowCompletes :
    after (exec (.push 7) { live with phase := .accum, win := [1] }) =
      some { live with
        phase := .accum, win := [1, 0], carry := List.replicate 31 0 ++ [7], resp := .okay } ∧
    ¬ (live.session = true ∧ live.decodeEn = true ∧ Phase.accum = .accum ∧
      [(1 : Sample)].length = 1101 ∧ 32 ≤ live.carry.length) := by decide

theorem witness_EveryStepKeepsInvariant :
    Inv (withTxn State.reset 0x108#9 1 false) ∧
    step (withTxn State.reset 0x108#9 1 false) =
      .next { State.reset with session := true, resp := .okay } :=
  ⟨⟨by decide, by decide, by decide, by decide, by decide, by decide, by decide, by decide⟩, rfl⟩

theorem witness_PushFollowsSampleInputRule :
    State.reset.session = false ∧
    (({ live with carry := List.replicate 31 0 } : State).session = true ∧
      ({ live with carry := List.replicate 31 0 } : State).carry.length < 32) ∧
    (live.session = true ∧ live.carry = 0 :: List.replicate 31 0 ∧
      31 ≤ (List.replicate 31 (0 : Sample)).length) := by decide

/-- A probe of four loud samples and one of three, and windows on both sides of completion. -/
theorem witness_HandoffProbesOrAccumulates :
    State.reset.decodeEn = false ∧ (live.decodeEn = true ∧ live.phase = .scan) ∧
    4 ≤ loudCount 1024#16 (0 :: [1025, 1025, 1025, 1025]) ∧
    ¬ 4 ≤ loudCount 1024#16 (1024 :: [1025, 1025, 1025, 0]) ∧
    ({ live with phase := .accum } : State).phase = .accum ∧
    (List.replicate 1101 (0 : Sample)).length + 1 = 1102 ∧
    ¬ (List.replicate 1100 (0 : Sample)).length + 1 = 1102 := by decide +kernel

/-- A live carry whose first five samples are those of V-DET-1's probe. -/
def burst : State :=
  { live with carry := 0 :: ([1025, 1025, 1025, 1025] ++ List.replicate 27 0) }

theorem witness_WindowStartsAtProbedSample :
    burst.session = true ∧ burst.decodeEn = true ∧ burst.phase = .scan ∧
    burst.carry = 0 :: ([1025, 1025, 1025, 1025] ++ List.replicate 27 0) ∧
    ([1025, 1025, 1025, 1025] ++ List.replicate 27 (0 : Sample)).length = 31 ∧
    4 ≤ loudCount burst.thresh
      (0 :: (([1025, 1025, 1025, 1025] ++ List.replicate 27 (0 : Sample)).take 4)) := by decide

theorem witness_HighThresholdNeverStartsFrame :
    32768 ≤ ({ live with thresh := 32768#16 } : State).thresh.toNat ∧ live.phase = .scan := by decide

theorem witness_BlockLeavesLast32InCarry : live.session = true ∧ live.carry.length ≤ 32 := by decide

theorem witness_WindowTakesStreamInOrder :
    ({ live with phase := .accum, win := [1] } : State).session = true ∧
    ({ live with phase := .accum, win := [1] } : State).decodeEn = true ∧
    ({ live with phase := .accum, win := [1] } : State).phase = .accum ∧
    ({ live with phase := .accum, win := [1] } : State).carry.length = 32 ∧
    ({ live with phase := .accum, win := [1] } : State).win.length + [(5 : Word), 6].length ≤ 1101 := by
  decide

/-- From START, 1133 PUSHes; and 1134 are too many. -/
theorem witness_NoFrameCompletesEarly :
    let s : State := { State.reset with session := true, decodeEn := true }
    s.carry.length ≤ 32 ∧ (s.phase = .scan → s.win = []) ∧ s.win.length ≤ 1101 ∧
    s.win.length + (s.carry.length + (List.replicate 1133 (0 : Word)).length - 32) < 1102 ∧
    ¬ s.win.length + (s.carry.length + (List.replicate 1134 (0 : Word)).length - 32) < 1102 := by
  decide +kernel

/-- A failed frame (no samples, no signal); test_program_P3 is one with OK. -/
theorem witness_FrameCompleteWritesOutcome :
    (frameDecode live.numerics live.win live.thresh).code ≠ .ok := by decide +kernel

theorem aboutToComplete_P3 : AboutToComplete beforeP3 0 (List.replicate 31 0) :=
  ⟨rfl, rfl, rfl, by decide +kernel, rfl, by decide⟩

theorem witness_CompletingPushDecodesInside : AboutToComplete beforeP3 0 (List.replicate 31 0) :=
  aboutToComplete_P3

/-- The classification of program P3's window carries the codeword of 0x155. -/
theorem witness_CarriedPayloadIsPublishedAndTaken :
    AboutToComplete beforeP3 0 (List.replicate 31 0) ∧
    Carries (classifyWindow beforeP3.numerics (beforeP3.win ++ [0]) beforeP3.thresh)
      (encodeCodeword 0x155) :=
  ⟨aboutToComplete_P3, by
    rw [beforeP3_window, show beforeP3.thresh = 1024#16 from rfl,
      show beforeP3.numerics = .fixedPoint from rfl, test_classify_P3]
    decide +kernel⟩

/-- S7, S2, S8: header, a middle bit and trailer flipped. -/
theorem witness_FlippedCodewordBitNeverPublishes :
    Carries (pattern 0x6A5B 0) (encodeCodeword 0x155 ^^^ BitVec.ofNat 15 (2 ^ 0)) ∧
    Carries (pattern 0x6A52 0) (encodeCodeword 0x155 ^^^ BitVec.ofNat 15 (2 ^ 3)) ∧
    Carries (pattern 0x2A5A 0) (encodeCodeword 0x155 ^^^ BitVec.ofNat 15 (2 ^ 14)) := by
  decide +kernel

/-- Each of the four cases of Assemble occurs, TRUNCATED and a codeword on the two sides of origin 292. -/
theorem witness_AssembleReportsFirstFailure :
    (∀ x ∈ List.replicate 1102 ToneClass.ambiguous, x = .ambiguous) ∧
    ((∃ x ∈ pattern 0x6A5A 293, x ≠ .ambiguous) ∧ 292 < bitOrigin (pattern 0x6A5A 293)) ∧
    ((∃ x ∈ withInterval5 (List.replicate 54 .ambiguous), x ≠ .ambiguous) ∧
      bitOrigin (withInterval5 (List.replicate 54 .ambiguous)) ≤ 292 ∧
      ∃ k < 15,
        (interval (withInterval5 (List.replicate 54 .ambiguous)) k).count .toneA ≤ 27 ∧
        (interval (withInterval5 (List.replicate 54 .ambiguous)) k).count .toneB ≤ 27) ∧
    ((∃ x ∈ pattern 0x6A5A 292, x ≠ .ambiguous) ∧ bitOrigin (pattern 0x6A5A 292) ≤ 292 ∧
      (∀ k < 15, ¬ ((interval (pattern 0x6A5A 292) k).count .toneA ≤ 27 ∧
        (interval (pattern 0x6A5A 292) k).count .toneB ≤ 27)) ∧
      (∀ k < 15, (0x6A5A#15).getLsbD k =
        decide ((interval (pattern 0x6A5A 292) k).count .toneA <
          (interval (pattern 0x6A5A 292) k).count .toneB))) := by
  refine ⟨by decide +kernel, ⟨⟨.toneA, by decide +kernel, by decide⟩, by decide +kernel⟩,
    ⟨⟨.toneA, by decide +kernel, by decide⟩, by decide +kernel, by decide +kernel⟩,
    ⟨.toneA, by decide +kernel, by decide⟩, by decide +kernel, by decide +kernel,
    by decide +kernel⟩

theorem witness_OriginIsFirstUnambiguous :
    1 < [ToneClass.ambiguous, .toneB].length ∧ bitOrigin [ToneClass.ambiguous, .toneB] = 1 := by
  decide

/-- R185's examples at the boundary: (28, 26), (26, 28) and (27, 27). -/
theorem witness_VoteNeedsTwentyEight :
    (List.replicate 28 ToneClass.toneA ++ List.replicate 26 ToneClass.toneB).length ≤ 54 ∧
    28 ≤ (List.replicate 28 ToneClass.toneA ++ List.replicate 26 ToneClass.toneB).count ToneClass.toneA ∧
    28 ≤ (List.replicate 26 ToneClass.toneA ++ List.replicate 28 ToneClass.toneB).count ToneClass.toneB ∧
    (List.replicate 27 ToneClass.toneA ++ List.replicate 27 ToneClass.toneB).count ToneClass.toneA ≤ 27 ∧
    (List.replicate 27 ToneClass.toneA ++ List.replicate 27 ToneClass.toneB).count ToneClass.toneB ≤ 27 := by decide

theorem witness_EachPayloadHasOneCandidate : eccDecode 0x152D ≠ 0xFFFF#16 := by decide

theorem witness_OneOrTwoFlipsFail : 0 < 13 ∧ 12 < 13 ∧ eccDecode 0x152D ≠ 0xFFFF#16 ∧ 0 ≠ 12 := by
  decide

/-- V-AGC-1's first segment, at the threshold's two sides. -/
theorem witness_AgcRescalesClosedSegment :
    (0 : ℚ) ≤ 1024 ∧ (∃ v ∈ [(0 : ℚ), 2000, 1000], |v| = 2000) ∧
    (∀ v ∈ [(0 : ℚ), 2000, 1000], |v| ≤ 2000) ∧
    (∀ v ∈ [(0 : ℚ), 2000, 1000], (v < 0 ↔ ¬ (-500 : ℚ) < 0)) ∧ (1024 : ℚ) < 2000 ∧
    ¬ (2000 : ℚ) < 2000 := by
  refine ⟨by norm_num, ⟨2000, by simp, by norm_num⟩, ?_, ?_, by norm_num, by norm_num⟩ <;>
    intro v hv <;> simp at hv <;> rcases hv with rfl | rfl | rfl <;> norm_num

theorem witness_AgcLeavesUnclosedSegment :
    (∀ x ∈ [0xF448#16, 0xFFFF#16], x.toInt < 0) ∧ (∀ x ∈ [0#16, 2000#16], 0 ≤ x.toInt) := by
  constructor <;> intro x hx <;> rw [List.mem_pair] at hx <;> rcases hx with rfl | rfl <;> decide

theorem witness_AgcIsIdempotent : (32767#16).toNat < 32768 := by decide

theorem witness_AgcHighThresholdRescalesNothing : 32768 ≤ (32768#16).toNat := by decide

theorem witness_PhasorsTrackExactPhase : 1101 ≤ 1101 := le_rfl

theorem witness_EnergyTracksExactReference :
    [(32768 : ℚ), -3].length ≤ 1102 ∧ (∀ x ∈ [(32768 : ℚ), -3], |x| ≤ 32768) ∧
    1 < [(32768 : ℚ), -3].length := by
  refine ⟨by decide, ?_, by decide⟩
  intro x hx
  simp at hx
  rcases hx with rfl | rfl <;> norm_num

/-- A window of silence. -/
def silence : List Sample := List.replicate 1102 0

theorem silence_length : silence.length = 1102 := List.length_replicate

theorem agc_silent : agc silence 1024#16 = List.replicate 1102 0 := by decide +kernel

theorem at_silent (n k : Nat) : Reference.at_ (List.replicate n 0) k = 0 := by
  rw [Reference.at_, List.getD_eq_getElem?_getD, List.getElem?_replicate]
  split <;> simp

/-- V-COR-0: no energy in silence. -/
theorem windowEnergy_silent (f : Tone) (i : Nat) : Reference.windowEnergy silence 1024#16 f i = 0 := by
  rw [Reference.windowEnergy, agc_silent]
  generalize (1102 : Nat) = n
  simp [Reference.energy, Reference.blockMagnitude, Reference.inPhase, Reference.quadrature, at_silent]

/-- The reference itself, whose error bound 0 leaves no draw anywhere. -/
theorem witness_ClassifyIsExactOutsideDraws (w : List Sample) (t : BitVec 16) (i : Nat) :
    Numerics.reference.Lawful (some 0) ∧ silence.length = 1102 ∧
    NoDraw w t 0 i :=
  ⟨Numerics.reference_lawful _, silence_length, abs_nonneg _, fun _ => abs_nonneg _⟩

theorem witness_ReferenceInstanceHasNoDraws : 1101 < silence.length := by
  rw [silence_length]; decide

/-- A window of silence, and a bound above 0. -/
theorem witness_DecodeIsReferenceOutsideDraws :
    Numerics.reference.Lawful (some (1 / 2 ^ 32)) ∧ silence.length = 1102 ∧
    ∀ i < 1102, NoDraw silence 1024#16 (1 / 2 ^ 32) i := by
  refine ⟨Numerics.reference_lawful _, silence_length, fun i _ => ⟨?_, fun h => ?_⟩⟩
  · rw [windowEnergy_silent, windowEnergy_silent]; norm_num
  · rw [windowEnergy_silent, windowEnergy_silent] at h; norm_num at h

theorem witness_IncoherentWindowHasNoSignal :
    Numerics.reference.Lawful (some 0) ∧ silence.length = 1102 ∧
    ∀ i < 1102,
      Reference.windowEnergy silence 1024#16 .a i +
        Reference.windowEnergy silence 1024#16 .b i ≤ 4096 ∧
      (0 : ℝ) ≤ |Reference.windowEnergy silence 1024#16 .a i +
        Reference.windowEnergy silence 1024#16 .b i - 4096| := by
  refine ⟨Numerics.reference_lawful _, silence_length, fun i _ => ⟨?_, abs_nonneg _⟩⟩
  rw [windowEnergy_silent, windowEnergy_silent]; norm_num

theorem witness_ReferenceEnergyWithinFullScale : ∀ x ∈ [(32768 : ℚ), -32768], |x| ≤ 32768 := by
  intro x hx
  simp at hx
  rcases hx with rfl | rfl <;> norm_num

end Sys2Proof.Tests
end

section
/-! The state's elements: which operation writes what, the bits of STATUS and of a write's data word, and
the invariant of 10_state.md R44. -/

/-! ### What an operation and a step can do -/

namespace Sys2Proof.Machine

variable {s t u : State} {i : Instr}

/-- What an operation does to the block before it is answered: one constructor per case of its rule
(40_sample_input.md R100, 46_host_registers.md R220 to R232). -/
inductive Effect (s : State) : Instr → State → Prop where
  | push (w : Word) : Effect s (.push w) (s.pushSample (sampleOf w))
  | enable (w : Word) (h : enableOf w = true) : Effect s (.wrCtrl w) { s with decodeEn := true }
  | disable (w : Word) (h : enableOf w = false) :
      Effect s (.wrCtrl w) { s.emptyWindow with decodeEn := false }
  | start (w : Word) (h : startOf w = true) : Effect s (.wrCmd w) s.startSession
  | stop (w : Word) (h : startOf w = false) (h' : stopOf w = true) :
      Effect s (.wrCmd w) s.stopSession
  | noCommand (w : Word) (h : startOf w = false) (h' : stopOf w = false) : Effect s (.wrCmd w) s
  | setThresh (w : Word) : Effect s (.wrThresh w) { s with thresh := threshOf w }
  | take : Effect s .rdResult s.clearMailbox
  | read (i : Instr)
      (h : i ∈ [Instr.rdStatus, .rdCtrl, .rdThresh, .rdLast, .rdVersion, .rdBuildDate]) :
      Effect s i s

/-- Every operation has its effect on the block and is answered. -/
theorem exec_effect (i : Instr) (s : State) :
    ∃ u r, Effect s i u ∧ exec i s = .next (u.respond r) := by
  cases i with
  | push w => exact ⟨_, _, .push w, rfl⟩
  | wrCtrl w =>
    cases h : enableOf w with
    | true => exact ⟨_, .okay, .enable w h, by simp [exec, execWrCtrl, h]⟩
    | false => exact ⟨_, .okay, .disable w h, by simp [exec, execWrCtrl, h]⟩
  | wrCmd w =>
    cases h : startOf w with
    | true => exact ⟨_, .okay, .start w h, by simp [exec, execWrCmd, h]⟩
    | false =>
      cases h' : stopOf w with
      | true => exact ⟨_, .okay, .stop w h h', by simp [exec, execWrCmd, h, h']⟩
      | false => exact ⟨_, .okay, .noCommand w h h', by simp [exec, execWrCmd, h, h']⟩
  | wrThresh w => exact ⟨_, _, .setThresh w, rfl⟩
  | rdResult => exact ⟨_, _, .take, rfl⟩
  | rdCtrl | rdStatus | rdThresh | rdLast | rdVersion | rdBuildDate =>
    exact ⟨_, _, .read _ (by decide), rfl⟩

theorem exec_eq_next (h : exec i s = .next t) : ∃ u r, Effect s i u ∧ t = u.respond r := by
  obtain ⟨u, r, hu, he⟩ := exec_effect i s
  exact ⟨u, r, hu, Host.Outcome.next.inj (h.symm.trans he)⟩

/-- Everything a step that ends in a next state can do: nothing, reset, run an operation, or answer an
illegal selector with an error. -/
theorem step_cases (h : step s = .next t) :
    (s.pending = [] ∧ t = s) ∨
    (∃ rest, s.pending = .reset :: rest ∧ t = { s with pending := rest }.assertReset) ∨
    (∃ x rest i, s.pending = .txn x :: rest ∧ decode x.request = .ok i ∧
      exec i { s with pending := rest } = .next t) ∨
    (∃ x rest e, s.pending = .txn x :: rest ∧ decode x.request = .error e ∧
      x.expectsError = true ∧ t = { s with pending := rest }.respond .error) := by
  unfold step at h
  split at h
  case h_1 hp => exact .inl ⟨hp, (Host.Outcome.next.inj h).symm⟩
  case h_2 rest hp => exact .inr (.inl ⟨rest, hp, (Host.Outcome.next.inj h).symm⟩)
  case h_3 x rest hp =>
    unfold transact at h
    split at h
    case h_1 i hd => exact .inr (.inr (.inl ⟨x, rest, i, hp, hd, h⟩))
    case h_2 e hd =>
      unfold raiseBusError at h
      split at h
      case isTrue hx =>
        exact .inr (.inr (.inr ⟨x, rest, e, hp, hd, hx, (Host.Outcome.next.inj h).symm⟩))
      case isFalse => cases h

/-! ### What PUSH leaves of a pending result -/

theorem State.frameComplete_mbValid_of_true (s : State) (h : s.mbValid = true) :
    s.frameComplete.mbValid = true := by
  simp [State.frameComplete, State.writeResult_mbValid, h]

theorem State.handoff_mbValid_of_true (s : State) (x : Sample) (h : s.mbValid = true) :
    (s.handoff x).mbValid = true := by
  rcases s.handoff_cases x with e | ⟨_, _, _, e⟩ | ⟨_, _, _, e⟩ | ⟨_, _, _, e⟩ <;> rw [e]
  case inr.inr.inr => exact State.frameComplete_mbValid_of_true _ h
  all_goals exact h

theorem State.pushSample_mbValid_of_true (s : State) (x : Sample) (h : s.mbValid = true) :
    (s.pushSample x).mbValid = true := by
  rcases s.pushSample_cases x with ⟨_, e⟩ | ⟨_, _, e⟩ | ⟨_, o, k, _, _, e⟩ <;> rw [e]
  case inr.inr => exact State.handoff_mbValid_of_true _ o h
  all_goals exact h

/-! ### The writers of each element -/

theorem Effect.thresh_eq_or (h : Effect s i u) :
    u.thresh = s.thresh ∨ ∃ w, i = .wrThresh w := by
  cases h with
  | setThresh w => exact .inr ⟨w, rfl⟩
  | _ => exact .inl (by simp)

theorem Effect.session_eq_or (h : Effect s i u) :
    u.session = s.session ∨ ∃ w, i = .wrCmd w := by
  cases h with
  | start w | stop w => exact .inr ⟨w, rfl⟩
  | _ => exact .inl (by simp)

theorem Effect.decodeEn_eq_or (h : Effect s i u) :
    u.decodeEn = s.decodeEn ∨ ∃ w, i = .wrCtrl w := by
  cases h with
  | enable w | disable w => exact .inr ⟨w, rfl⟩
  | _ => exact .inl (by simp)

theorem Effect.carry_eq_or (h : Effect s i u) :
    u.carry = s.carry ∨ ∃ w, i = .push w ∨ i = .wrCmd w := by
  cases h with
  | push w => exact .inr ⟨w, .inl rfl⟩
  | start w | stop w => exact .inr ⟨w, .inr rfl⟩
  | _ => exact .inl (by simp)

theorem Effect.window_eq_or (h : Effect s i u) :
    (u.phase = s.phase ∧ u.win = s.win) ∨ ∃ w, i = .push w ∨ i = .wrCtrl w ∨ i = .wrCmd w := by
  cases h with
  | push w => exact .inr ⟨w, .inl rfl⟩
  | disable w => exact .inr ⟨w, .inr (.inl rfl)⟩
  | start w | stop w => exact .inr ⟨w, .inr (.inr rfl)⟩
  | _ => exact .inl (by simp)

theorem Effect.mbValid_of_true (h : Effect s i u) (hs : s.mbValid = true) :
    u.mbValid = true ∨ i = .rdResult := by
  cases h with
  | take => exact .inr rfl
  | push w => exact .inl (s.pushSample_mbValid_of_true _ hs)
  | _ => exact .inl hs

theorem Effect.mbValid_of_false (h : Effect s i u) (hs : s.mbValid = false) :
    u.mbValid = false ∨ ∃ w, i = .push w := by
  cases h with
  | push w => exact .inr ⟨w, rfl⟩
  | take => exact .inl rfl
  | _ => exact .inl hs

theorem Effect.record_eq_or (h : Effect s i u) :
    (u.mbPayload = s.mbPayload ∧ u.lastCode = s.lastCode ∧ u.lastCw = s.lastCw) ∨
      ∃ w, i = .push w := by
  cases h with
  | push w => exact .inr ⟨w, rfl⟩
  | _ => exact .inl (by simp)

theorem Effect.environment_eq (h : Effect s i u) :
    u.pending = s.pending ∧ u.arithmetic = s.arithmetic := by
  cases h <;> simp

/-! ### The words a read assembles -/

theorem OutcomeCode.bits_toNat_le (c : OutcomeCode) : c.bits.toNat ≤ 7 := by cases c <;> decide

@[simp] theorem flagWord_toNat (b : Bool) : (flagWord b).toNat = b.toNat := by cases b <;> rfl

theorem Phase.flag_eq_true_iff (p : Phase) : p.flag = true ↔ p = .accum := by
  cases p <;> simp [Phase.flag]

/-- A field put above all the bits of a word adds its value at its place. -/
theorem toNat_or_shiftLeft {x y : Word} {n a b : Nat} (hx : x.toNat = a) (hy : y.toNat = b)
    (ha : a < 2 ^ n) (hb : 2 ^ n * b < 2 ^ 32) : (x ||| y <<< n).toNat = a + 2 ^ n * b := by
  rw [BitVec.toNat_or, BitVec.toNat_shiftLeft, hx, hy, Nat.shiftLeft_eq, Nat.mul_comm,
    Nat.mod_eq_of_lt hb, Nat.or_comm, ← Nat.two_pow_add_eq_or_of_lt ha, Nat.add_comm]

/-- STATUS as a number (10_state.md R37): with legal lengths no field reaches the next. -/
theorem statusWord_toNat (s : State) (hc : s.carry.length ≤ 32) (hw : s.win.length ≤ 1101) :
    (statusWord s).toNat = s.mbValid.toNat + 2 * s.session.toNat + 4 * s.decodeEn.toNat +
      8 * s.phase.flag.toNat + 256 * s.carry.length + 65536 * s.win.length := by
  have hm := s.mbValid.toNat_le
  have hs := s.session.toNat_le
  have hd := s.decodeEn.toNat_le
  have hp := s.phase.flag.toNat_le
  have hc' : (BitVec.ofNat 32 s.carry.length).toNat = s.carry.length :=
    Nat.mod_eq_of_lt (by omega)
  have hw' : (BitVec.ofNat 32 s.win.length).toNat = s.win.length :=
    Nat.mod_eq_of_lt (by omega)
  have h1 := toNat_or_shiftLeft (n := 1) (flagWord_toNat s.mbValid) (flagWord_toNat s.session)
    (by omega) (by omega)
  have h2 := toNat_or_shiftLeft (n := 2) h1 (flagWord_toNat s.decodeEn) (by omega) (by omega)
  have h3 := toNat_or_shiftLeft (n := 3) h2 (flagWord_toNat s.phase.flag) (by omega) (by omega)
  have h8 := toNat_or_shiftLeft (n := 8) h3 hc' (by omega) (by omega)
  exact toNat_or_shiftLeft (n := 16) h8 hw' (by omega) (by omega)

theorem getLsbD_eq_of_toNat {v : Word} {k : Nat} {b : Bool} (h : v.toNat / 2 ^ k % 2 = b.toNat) :
    v.getLsbD k = b := by
  rw [BitVec.getLsbD, Nat.testBit_eq_decide_div_mod_eq, h]
  cases b <;> rfl

theorem toNat_extractLsb'_eq_div_mod (v : Word) (n m : Nat) :
    (v.extractLsb' n m).toNat = v.toNat / 2 ^ n % 2 ^ m := by
  rw [BitVec.extractLsb'_toNat, Nat.shiftRight_eq_div_pow]

theorem extractLsb'_eq_zero_of_toNat {v : Word} {n m : Nat} (h : v.toNat / 2 ^ n % 2 ^ m = 0) :
    v.extractLsb' n m = 0#m :=
  BitVec.eq_of_toNat_eq ((toNat_extractLsb'_eq_div_mod v n m).trans (by simpa using h))

/-! ### The operand fields of a write -/

theorem exec_push_congr {w v : Word} (h : sampleOf w = sampleOf v) (s : State) :
    exec (.push w) s = exec (.push v) s := by
  simp only [exec, execPush, h]

theorem exec_wrThresh_congr {w v : Word} (h : threshOf w = threshOf v) (s : State) :
    exec (.wrThresh w) s = exec (.wrThresh v) s := by
  simp only [exec, execWrThresh, h]

theorem exec_wrCtrl_congr {w v : Word} (h : enableOf w = enableOf v) (s : State) :
    exec (.wrCtrl w) s = exec (.wrCtrl v) s := by
  simp only [exec, execWrCtrl, h]

theorem exec_wrCmd_congr {w v : Word} (h : startOf w = startOf v) (h' : stopOf w = stopOf v)
    (s : State) : exec (.wrCmd w) s = exec (.wrCmd v) s := by
  simp only [exec, execWrCmd, h, h']

end Sys2Proof.Machine

/-! ### The invariant of R44 -/

namespace Sys2Proof.Safety

open Sys2Proof.Machine

variable {s t u : State} {i : Instr}

theorem Inv.reset : Inv State.reset where
  carry_le := Nat.zero_le _
  idle_carry _ := rfl
  idle_scan _ := rfl
  disabled_scan _ := rfl
  scan_iff := iff_of_true rfl rfl
  win_le := Nat.zero_le _
  payload_le := .inl rfl
  code_le := OutcomeCode.bits_toNat_le _

theorem Inv.respond (h : Inv s) (r : Response) : Inv (s.respond r) := { h with }

theorem Inv.setPending (h : Inv s) (p : List PortEvent) : Inv { s with pending := p } := { h with }

theorem Inv.setThresh (h : Inv s) (v : BitVec 16) : Inv { s with thresh := v } := { h with }

theorem Inv.assertReset (s : State) : Inv s.assertReset := { Inv.reset with }

theorem Inv.clearMailbox (h : Inv s) : Inv s.clearMailbox := { h with payload_le := .inl rfl }

theorem Inv.enable (h : Inv s) : Inv { s with decodeEn := true } := { h with disabled_scan := nofun }

theorem Inv.emptyWindow (h : Inv s) : Inv s.emptyWindow :=
  { h with
    idle_scan := fun _ => rfl
    disabled_scan := fun _ => rfl
    scan_iff := iff_of_true rfl rfl
    win_le := Nat.zero_le _ }

theorem Inv.disable (h : Inv s) : Inv { s.emptyWindow with decodeEn := false } :=
  { h.emptyWindow with disabled_scan := fun _ => rfl }

theorem Inv.stopSession (h : Inv s) : Inv s.stopSession :=
  { h.emptyWindow with
    carry_le := Nat.zero_le _
    idle_carry := fun _ => rfl
    idle_scan := fun _ => rfl }

theorem Inv.startSession (h : Inv s) : Inv s.startSession :=
  { h.stopSession with idle_carry := nofun, idle_scan := nofun }

theorem Inv.setCarry (h : Inv s) (hs : s.session = true) {c : List Sample} (hc : c.length ≤ 32) :
    Inv { s with carry := c } :=
  { h with
    carry_le := hc
    idle_carry := fun hi => absurd (hs.symm.trans hi) nofun }

/-- A frame that completes empties the window, so the window it had may be of any length. -/
theorem Inv.frameComplete (h : Inv s) (w : List Sample) : Inv { s with win := w }.frameComplete where
  carry_le := by simpa using h.carry_le
  idle_carry := by simpa using h.idle_carry
  idle_scan _ := rfl
  disabled_scan _ := rfl
  scan_iff := iff_of_true rfl rfl
  win_le := Nat.zero_le _
  payload_le := State.frameComplete_payload_le _ h.payload_le
  code_le := OutcomeCode.bits_toNat_le _

/-- A window in flight, where there is a session and decoding is enabled. -/
theorem Inv.setWindow (h : Inv s) (hs : s.session = true) (he : s.decodeEn = true)
    {w : List Sample} (hw : w ≠ []) (hl : w.length ≤ 1101) :
    Inv { s with phase := .accum, win := w } :=
  { h with
    idle_scan := fun hi => absurd (hs.symm.trans hi) nofun
    disabled_scan := fun hd => absurd (he.symm.trans hd) nofun
    scan_iff := iff_of_false nofun hw
    win_le := hl }

theorem Inv.handoff (h : Inv s) (hs : s.session = true) (x : Sample) : Inv (s.handoff x) := by
  rcases s.handoff_cases x with e | ⟨he, _, _, e⟩ | ⟨he, hp, hl, e⟩ | ⟨_, _, _, e⟩ <;> rw [e]
  · exact h
  · exact h.setWindow hs he (by simp) (by simp)
  · have hw : (s.win ++ [x]).length ≤ 1101 := by
      have := h.win_le
      simp [Config.winLen] at hl ⊢
      omega
    simpa only [hp] using h.setWindow hs he (by simp) hw
  · exact h.frameComplete _

theorem Inv.pushSample (h : Inv s) (x : Sample) : Inv (s.pushSample x) := by
  rcases s.pushSample_cases x with ⟨_, e⟩ | ⟨hs, hl, e⟩ | ⟨hs, o, k, hc, _, e⟩ <;> rw [e]
  · exact h
  · exact h.setCarry hs (by simp; omega)
  · have hk : (k ++ [x]).length ≤ 32 := by simpa [hc] using h.carry_le
    exact (h.setCarry hs hk).handoff hs o

theorem Inv.effect (h : Inv s) (he : Effect s i u) : Inv u := by
  cases he with
  | push w => exact h.pushSample _
  | enable => exact h.enable
  | disable => exact h.disable
  | start => exact h.startSession
  | stop => exact h.stopSession
  | setThresh w => exact h.setThresh _
  | take => exact h.clearMailbox
  | noCommand | read => exact h

theorem Inv.exec (h : Inv s) (he : exec i s = .next t) : Inv t := by
  obtain ⟨u, r, hu, rfl⟩ := exec_eq_next he
  exact (h.effect hu).respond r

theorem Inv.step (h : Inv s) (hst : step s = .next t) : Inv t := by
  rcases step_cases hst with
    ⟨_, rfl⟩ | ⟨rest, _, rfl⟩ | ⟨_, rest, _, _, _, he⟩ | ⟨_, rest, _, _, _, _, rfl⟩
  · exact h
  · exact Inv.assertReset _
  · exact (h.setPending rest).exec he
  · exact (h.setPending rest).respond _

end Sys2Proof.Safety

/-! ### The obligations -/

namespace Sys2Proof.Machine

open Sys2Proof.Safety

/-- Settles O24: each case of `step_cases` keeps the invariant, an operation because each case of its
`Effect` does. -/
theorem everyStepKeepsInvariant : Obligations.EveryStepKeepsInvariant :=
  fun _ _ h hst => h.step hst

/-- Settles O15: each field is a digit of the number `statusWord_toNat` gives. -/
theorem rdStatusShowsEveryField : Obligations.RdStatusShowsEveryField := by
  intro s hc hw
  have hv := statusWord_toNat s hc hw
  have hm := s.mbValid.toNat_le
  have hs := s.session.toNat_le
  have hd := s.decodeEn.toNat_le
  have hp := s.phase.flag.toNat_le
  have hphase : (statusWord s).getLsbD 3 = s.phase.flag := getLsbD_eq_of_toNat (by omega)
  refine ⟨statusWord s, rfl, getLsbD_eq_of_toNat ?_, getLsbD_eq_of_toNat ?_,
    getLsbD_eq_of_toNat ?_, hphase ▸ s.phase.flag_eq_true_iff, extractLsb'_eq_zero_of_toNat ?_,
    (toNat_extractLsb'_eq_div_mod _ _ _).trans ?_, extractLsb'_eq_zero_of_toNat ?_,
    (toNat_extractLsb'_eq_div_mod _ _ _).trans ?_, extractLsb'_eq_zero_of_toNat ?_⟩
  all_goals omega

/-- Settles O21: an operation answers its `Effect`, whose writers each `Effect` lemma names. -/
theorem eachElementHasItsOwnWriters : Obligations.EachElementHasItsOwnWriters := by
  intro i s t h
  obtain ⟨u, r, hu, rfl⟩ := exec_eq_next h
  refine ⟨hu.thresh_eq_or.resolve_left, hu.session_eq_or.resolve_left,
    hu.decodeEn_eq_or.resolve_left, hu.carry_eq_or.resolve_left,
    fun hne => hu.window_eq_or.resolve_left (not_and_or.mpr hne),
    fun hs ht => (hu.mbValid_of_true hs).resolve_left (Bool.not_eq_true _ ▸ ht),
    fun hs ht => (hu.mbValid_of_false hs).resolve_left (Bool.not_eq_false _ ▸ ht),
    fun hne => hu.record_eq_or.resolve_left ?_, hu.environment_eq⟩
  rintro ⟨hp, hc, hw⟩
  exact hne.elim (· hp) (·.elim (· hc) (· hw))

/-- Settles O10: an operation reads its data word through its operand fields alone. -/
theorem unnamedWriteBitsAreIgnored : Obligations.UnnamedWriteBitsAreIgnored :=
  fun _ _ s => ⟨fun h => ⟨exec_push_congr h s, exec_wrThresh_congr h s⟩,
    fun h => exec_wrCtrl_congr h s, fun h h' => exec_wrCmd_congr h h' s⟩

/-- Settles O23 by the reset values themselves. -/
theorem resetMeetsInvariant : Obligations.ResetMeetsInvariant := Inv.reset

end Sys2Proof.Machine
end

section
/-! The port's transactions (20_memory.md R55, R59) and its reads without a side effect (R56). -/

namespace Sys2Proof.Machine

open Sys2Proof.Safety

variable {s : State} {t : Txn} {i : Instr}

/-! ### A step on a pending transaction -/

theorem transact_of_decode_ok (h : decode t.request = .ok i) : transact t s = exec i s := by
  simp only [transact, h]

theorem step_of_pending_txn {rest : List PortEvent} (h : s.pending = .txn t :: rest) :
    step s = transact t { s with pending := rest } := by
  unfold step
  rw [h]

/-! ### Reads without a side effect -/

theorem State.sameBlock_respond (s : State) (r : Response) : SameBlock s (s.respond r) := by
  constructor <;> rfl

/-- A plain read only answers, with a word that does not depend on the response already in the state. -/
theorem exec_plainRead
    (h : i ∈ [Instr.rdStatus, .rdCtrl, .rdThresh, .rdLast, .rdVersion, .rdBuildDate]) :
    ∃ word : State → Word, (∀ s, exec i s = .next (s.respond (.rdata (word s)))) ∧
      ∀ s r, word (s.respond r) = word s := by
  simp only [List.mem_cons, List.not_mem_nil, or_false] at h
  rcases h with rfl | rfl | rfl | rfl | rfl | rfl
  · exact ⟨statusWord, fun _ => rfl, fun _ _ => rfl⟩
  · exact ⟨ctrlWord, fun _ => rfl, fun _ _ => rfl⟩
  · exact ⟨threshWord, fun _ => rfl, fun _ _ => rfl⟩
  · exact ⟨lastOutcomeWord, fun _ => rfl, fun _ _ => rfl⟩
  · exact ⟨fun _ => Config.versionId, fun _ => rfl, fun _ _ => rfl⟩
  · exact ⟨fun _ => Config.buildDate, fun _ => rfl, fun _ _ => rfl⟩

/-! ### The obligations -/

/-- Settles O4: the step is the transaction's, and the transaction's is the decoded operation's. -/
theorem stepRunsDecodedTransaction : Obligations.StepRunsDecodedTransaction :=
  fun _ _ _ _ hp hd => (step_of_pending_txn hp).trans (transact_of_decode_ok hd)

/-- Settles O20: the word a plain read answers depends on the block alone, which the answer keeps. -/
theorem plainReadsHaveNoSideEffect : Obligations.PlainReadsHaveNoSideEffect := by
  intro i s hi
  obtain ⟨word, hexec, hword⟩ := exec_plainRead hi
  have hagain : exec i (s.respond (.rdata (word s))) = .next (s.respond (.rdata (word s))) := by
    rw [hexec, hword]
    rfl
  exact ⟨_, word s, hexec s, s.sameBlock_respond _, rfl, rfl, rfl, hagain⟩

end Sys2Proof.Machine
end

section
/-! The encoding of the transactions: a request's bit 8 and offset (30_encoding.md R70), the operation map
and its inverse (R71, R74), the illegal selectors (R75), and the answer of every operation (R72). -/

namespace Sys2Proof

variable {r : Request} {i : Instr}

/-! ### The two parts of a selector -/

@[simp] theorem regWrite_isWrite (off : Offset) (w : Word) : (regWrite off w).isWrite = true := by
  simp [Request.isWrite, regWrite]

@[simp] theorem regRead_isWrite (off : Offset) : (regRead off).isWrite = false := by
  simp [Request.isWrite, regRead]

@[simp] theorem regWrite_off (off : Offset) (w : Word) : (regWrite off w).off = off := by
  simp [Request.off, regWrite, BitVec.setWidth_or]

@[simp] theorem regRead_off (off : Offset) : (regRead off).off = off := by
  simp [Request.off, regRead]

/-- A selector is its bit 8 over its offset (R70). -/
theorem Request.sel_toNat (r : Request) : r.sel.toNat = 256 * r.isWrite.toNat + r.off.toNat := by
  have hbit : r.isWrite.toNat = r.sel.toNat / 2 ^ 8 % 2 := by
    rw [isWrite, BitVec.getLsbD, Nat.toNat_testBit]
  have hoff : r.off.toNat = r.sel.toNat % 2 ^ 8 := BitVec.toNat_setWidth ..
  omega

theorem Request.sel_eq_of_isWrite_of_off {r r' : Request} (hw : r.isWrite = r'.isWrite)
    (ho : r.off = r'.off) : r.sel = r'.sel :=
  BitVec.eq_of_toNat_eq (by rw [sel_toNat, sel_toNat, hw, ho])

theorem regWrite_off_sel (h : r.isWrite = true) (w : Word) : (regWrite r.off w).sel = r.sel :=
  Request.sel_eq_of_isWrite_of_off (by rw [regWrite_isWrite, h]) (regWrite_off ..)

theorem regRead_off_sel (h : r.isWrite = false) : (regRead r.off).sel = r.sel :=
  Request.sel_eq_of_isWrite_of_off (by rw [regRead_isWrite, h]) (regRead_off _)

/-! ### Decoding and encoding -/

/-- The request with the data word of a read, which the block ignores (R71), taken as 0. -/
def Request.withoutReadData (r : Request) : Request := ⟨r.sel, if r.isWrite then r.wdata else 0⟩

@[simp] theorem Request.withoutReadData_sel (r : Request) : r.withoutReadData.sel = r.sel := rfl

theorem Request.withoutReadData_of_isWrite (h : r.isWrite = true) : r.withoutReadData = r := by
  rw [withoutReadData, if_pos h]

@[simp] theorem decode_encode (i : Instr) : decode (encode i) = .ok i := by cases i <;> rfl

/-- Each of the eleven branches of the operation map tests for the selector of its own operation. -/
theorem encode_of_decode_eq_ok (h : decode r = .ok i) : encode i = r.withoutReadData := by
  obtain ⟨sel, wdata⟩ := r
  unfold decode at h
  iterate 11
    split at h
    next hsel =>
      subst hsel
      cases h
      simp [Request.withoutReadData, Request.isWrite, encode, regWrite, regRead]
  cases h

theorem exists_decode_eq_ok_iff : (∃ i, decode r = .ok i) ↔ ∃ i, (encode i).sel = r.sel := by
  constructor
  · rintro ⟨i, h⟩
    exact ⟨i, by rw [encode_of_decode_eq_ok h, r.withoutReadData_sel]⟩
  · rintro ⟨i, h⟩
    obtain ⟨sel, wdata⟩ := r
    obtain rfl : (encode i).sel = sel := h
    cases i <;> exact ⟨_, rfl⟩

theorem exists_decode_eq_error_iff : (∃ e, decode r = .error e) ↔ ¬ ∃ i, decode r = .ok i := by
  cases decode r <;> simp

/-! ### The legal selectors -/

theorem Request.legal_congr {r r' : Request} (h : r.sel = r'.sel) : r.legal = r'.legal := by
  unfold legal aligned mapped accessAllowed off isWrite
  rw [h]

theorem Request.legal_iff :
    r.legal = true ↔ r.off.toNat % 4 = 0 ∧ r.off.toNat < 0x24 ∧
      (r.isWrite = true ∧ r.off.toNat ∈ [0x00, 0x04, 0x08, 0x10] ∨
        r.isWrite = false ∧ r.off.toNat ∉ [0x00, 0x08]) := by
  cases h : r.isWrite <;> simp [legal, aligned, mapped, accessAllowed, h, and_assoc]

theorem encode_wellFormed (i : Instr) : (encode i).wellFormed = true := by
  cases i with
  | push w | wrCtrl w | wrCmd w | wrThresh w =>
    exact Laws.EncodesLegally.regWrite_wellFormed (by decide) w
  | _ => rfl

theorem encode_legal (i : Instr) : (encode i).legal = true :=
  (Bool.and_eq_true_iff.mp (encode_wellFormed i)).1

theorem Request.off_eq_of_legal_write (h : r.legal = true) (hw : r.isWrite = true) :
    r.off = 0x00#8 ∨ r.off = 0x04#8 ∨ r.off = 0x08#8 ∨ r.off = 0x10#8 := by
  obtain ⟨-, -, haccess⟩ := legal_iff.mp h
  simp [hw] at haccess
  bv_omega

theorem Request.off_eq_of_legal_read (h : r.legal = true) (hw : r.isWrite = false) :
    r.off = 0x04#8 ∨ r.off = 0x0C#8 ∨ r.off = 0x10#8 ∨ r.off = 0x14#8 ∨ r.off = 0x18#8 ∨
      r.off = 0x1C#8 ∨ r.off = 0x20#8 := by
  obtain ⟨haligned, hmapped, haccess⟩ := legal_iff.mp h
  simp [hw] at haccess
  bv_omega

/-- The model's own check of a selector passes exactly the selectors of the operations (R74). -/
theorem Request.legal_iff_exists_encode_sel : r.legal = true ↔ ∃ i, (encode i).sel = r.sel := by
  refine ⟨fun h => ?_, fun ⟨i, hi⟩ => (legal_congr hi).symm.trans (encode_legal i)⟩
  cases hw : r.isWrite with
  | true =>
    rw [← regWrite_off_sel hw 0]
    rcases off_eq_of_legal_write h hw with e | e | e | e <;> rw [e]
    exacts [⟨.push 0, rfl⟩, ⟨.wrCtrl 0, rfl⟩, ⟨.wrCmd 0, rfl⟩, ⟨.wrThresh 0, rfl⟩]
  | false =>
    rw [← regRead_off_sel hw]
    rcases off_eq_of_legal_read h hw with e | e | e | e | e | e | e <;> rw [e]
    exacts [⟨.rdCtrl, rfl⟩, ⟨.rdStatus, rfl⟩, ⟨.rdThresh, rfl⟩, ⟨.rdResult, rfl⟩, ⟨.rdLast, rfl⟩,
      ⟨.rdVersion, rfl⟩, ⟨.rdBuildDate, rfl⟩]

theorem exists_decode_eq_error_iff_not_legal : (∃ e, decode r = .error e) ↔ ¬ r.legal = true := by
  rw [exists_decode_eq_error_iff, exists_decode_eq_ok_iff, Request.legal_iff_exists_encode_sel]

theorem filter_decodeTableWord_isSome :
    (List.range 512).filter (fun n => (decodeTableWord 16 n).isSome) =
      [0x004, 0x00C, 0x010, 0x014, 0x018, 0x01C, 0x020, 0x100, 0x104, 0x108, 0x110] := by
  decide +kernel

end Sys2Proof

namespace Sys2Proof.Machine

variable {i : Instr}

/-! ### The answer of an operation -/

theorem execWrCtrl_answers_okay (w : Word) (s : State) :
    ∃ u : State, execWrCtrl w s = .next (u.respond .okay) := by
  unfold execWrCtrl
  split <;> exact ⟨_, rfl⟩

theorem execWrCmd_answers_okay (w : Word) (s : State) :
    ∃ u : State, execWrCmd w s = .next (u.respond .okay) := by
  unfold execWrCmd
  split
  · exact ⟨_, rfl⟩
  · split <;> exact ⟨_, rfl⟩

/-- A write is answered with the acknowledge (R72). -/
theorem exec_write_answers_okay (h : (encode i).isWrite = true) (s : State) :
    ∃ u : State, exec i s = .next (u.respond .okay) := by
  cases i with
  | push w => exact ⟨_, rfl⟩
  | wrCtrl w => exact execWrCtrl_answers_okay w s
  | wrCmd w => exact execWrCmd_answers_okay w s
  | wrThresh w => exact ⟨_, rfl⟩
  | _ => simp [encode] at h

/-- A read is answered with its data (R72). -/
theorem exec_read_answers_rdata (h : (encode i).isWrite = false) (s : State) :
    ∃ (u : State) (v : Word), exec i s = .next (u.respond (.rdata v)) := by
  cases i with
  | push w | wrCtrl w | wrCmd w | wrThresh w => simp [encode] at h
  | _ => exact ⟨_, _, rfl⟩

/-! ### The obligations -/

/-- Settles O1: a decoded request is its operation's encoding but for the data word of a read. -/
theorem decodeInvertsEncode : Obligations.DecodeInvertsEncode := by
  refine ⟨decode_encode, fun r i h => ?_⟩
  rw [encode_of_decode_eq_ok h]
  exact ⟨r.withoutReadData_sel, Request.withoutReadData_of_isWrite⟩

/-- Settles O2: the requests that do not decode are those that `Request.legal` rejects, for the alignment,
the mapping or the access. -/
theorem illegalSelectorsAreThoseListed : Obligations.IllegalSelectorsAreThoseListed := by
  refine ⟨fun r => ?_, congrArg List.length filter_decodeTableWord_isSome⟩
  rw [exists_decode_eq_error_iff_not_legal, Request.legal_iff]
  simp only [List.mem_cons, List.not_mem_nil, or_false]
  cases r.isWrite
  all_goals
    simp only [reduceCtorEq, true_and, false_and, false_or, or_false]
    omega

/-- Settles O3: each word is the encoding of its operation. -/
theorem selectorWordsDecode : Obligations.SelectorWordsDecode :=
  ⟨decode_encode (.push _), decode_encode (.wrCtrl _), decode_encode .rdCtrl,
    decode_encode (.wrCmd _), decode_encode .rdStatus, decode_encode (.wrThresh _),
    decode_encode .rdResult, decode_encode .rdBuildDate⟩

/-- Settles O9: a write is answered with the acknowledge, a read with its data. -/
theorem everyOperationCompletes : Obligations.EveryOperationCompletes := by
  intro i s
  cases h : (encode i).isWrite with
  | true =>
    obtain ⟨u, he⟩ := exec_write_answers_okay h s
    exact ⟨_, he, fun _ => rfl, nofun⟩
  | false =>
    obtain ⟨u, v, he⟩ := exec_read_answers_rdata h s
    exact ⟨_, he, nofun, fun _ => ⟨v, rfl⟩⟩

end Sys2Proof.Machine
end

section
/-! PUSH and blocks of PUSHes: the sample input rule (40_sample_input.md R100), what a PUSH leaves unchanged,
and the carry and the window after a block (R101, R102, 41_frame_detector.md R122). -/

namespace Sys2Proof.Machine

open Sys2Proof.Safety

variable {s : State} {o x : Sample} {k : List Sample}

/-! ### One PUSH -/

theorem exec_push (w : Word) (s : State) :
    exec (.push w) s = .next ((s.pushSample (sampleOf w)).respond .okay) := rfl

theorem sampleOf_toNat (w : Word) : (sampleOf w).toNat = w.toNat % 65536 :=
  (toNat_extractLsb'_eq_div_mod w 0 16).trans (by simp)

/-- A sample's value is the low half of the data word in two's complement (00_scope.md R11 `sext_16`). -/
theorem sampleOf_toInt (w : Word) : (sampleOf w).toInt =
    if w.toNat % 65536 < 32768 then ((w.toNat % 65536 : Nat) : Int)
    else ((w.toNat % 65536 : Nat) : Int) - 65536 := by
  have h := BitVec.toInt_eq_toNat_cond (n := 16) (sampleOf w)
  rw [sampleOf_toNat] at h
  exact h.trans (if_congr (by omega) rfl rfl)

theorem State.pushSample_short (x : Sample) (hs : s.session = true)
    (hl : s.carry.length < Config.carryLen) :
    s.pushSample x = { s with carry := s.carry ++ [x] } := by
  rw [s.pushSample_session x hs, s.acceptSample_short x hl]

theorem State.pushSample_full (x : Sample) (hs : s.session = true) (hc : s.carry = o :: k)
    (hl : Config.carryLen ≤ s.carry.length) :
    s.pushSample x = { s with carry := k ++ [x] }.handoff o := by
  rw [s.pushSample_session x hs, s.acceptSample_full x hc hl]

/-! ### The frame of a PUSH -/

theorem State.handoff_sameResult
    (h : ¬ (s.decodeEn = true ∧ s.phase = .accum ∧ s.win.length + 1 = Config.winLen)) :
    SameResult s (s.handoff x) := by
  rcases s.handoff_cases x with e | ⟨_, _, _, e⟩ | ⟨_, _, _, e⟩ | ⟨he, hp, hl, _⟩
  case inr.inr.inr => exact absurd ⟨he, hp, hl⟩ h
  all_goals
    rw [e]
    constructor <;> rfl

theorem State.pushSample_sameResult
    (h : ¬ (s.session = true ∧ s.decodeEn = true ∧ s.phase = .accum ∧
      s.win.length + 1 = Config.winLen ∧ Config.carryLen ≤ s.carry.length)) :
    SameResult s (s.pushSample x) := by
  rcases s.pushSample_cases x with ⟨_, e⟩ | ⟨_, _, e⟩ | ⟨hs, o, k, _, hl, e⟩ <;> rw [e]
  case inr.inr =>
    have hr : SameResult { s with carry := k ++ [x] } _ :=
      State.handoff_sameResult (x := o) fun ⟨he, hp, hw⟩ => h ⟨hs, he, hp, hw, hl⟩
    exact { hr with }
  all_goals constructor <;> rfl

/-! ### The last samples of a stream -/

/-- Keeping the last `n` of a stream part by part keeps the last `n` of the whole. -/
theorem lastOf_lastOf_append {α : Type} (n : Nat) (l m : List α) :
    lastOf n (lastOf n l ++ m) = lastOf n (l ++ m) := by
  simp only [lastOf]
  rw [← List.drop_append_of_le_length (Nat.sub_le ..), List.drop_drop]
  congr 1
  simp only [List.length_drop, List.length_append]
  omega

theorem State.pushSample_carry (x : Sample) (hs : s.session = true)
    (hl : s.carry.length ≤ Config.carryLen) :
    (s.pushSample x).carry = lastOf Config.carryLen (s.carry ++ [x]) := by
  rcases s.pushSample_cases x with ⟨hi, _⟩ | ⟨_, hlt, e⟩ | ⟨_, o, k, hc, hge, e⟩
  · exact absurd (hs.symm.trans hi) nofun
  · have h0 : (s.carry ++ [x]).length - Config.carryLen = 0 := by simp; omega
    rw [e, lastOf, h0, List.drop_zero]
  · have h1 : (s.carry ++ [x]).length - Config.carryLen = 1 := by simp; omega
    rw [e, State.handoff_carry, lastOf, h1, hc]
    rfl

/-! ### A block of PUSHes -/

/-- The state after a block of PUSHes (40_sample_input.md R102). -/
def State.pushBlock (s : State) : List Word → State
  | [] => s
  | w :: ws => ((s.pushSample (sampleOf w)).respond .okay).pushBlock ws

theorem State.pushBlock_cons (s : State) (w : Word) (ws : List Word) :
    s.pushBlock (w :: ws) = ((s.pushSample (sampleOf w)).respond .okay).pushBlock ws := rfl

theorem execAll_submit (ws : List Word) (s : State) :
    execAll (submit ws) s = .next (s.pushBlock ws) := by
  induction ws generalizing s with
  | nil => rfl
  | cons w ws ih => exact ih _

theorem State.pushBlock_carry (ws : List Word) (hs : s.session = true)
    (hl : s.carry.length ≤ Config.carryLen) :
    (s.pushBlock ws).carry = lastOf Config.carryLen (s.carry ++ ws.map sampleOf) := by
  induction ws generalizing s with
  | nil => simp [pushBlock, lastOf, Nat.sub_eq_zero_of_le hl]
  | cons w ws ih =>
    have hc := State.pushSample_carry (sampleOf w) hs hl
    rw [pushBlock_cons, ih (by simpa using hs) (by simp [hc]; omega), respond_carry, hc,
      lastOf_lastOf_append, List.append_assoc]
    rfl

/-- While a window accumulates and is not completed, a PUSH moves the carry's oldest sample to the window. -/
theorem State.pushSample_append (x : Sample) (hs : s.session = true) (he : s.decodeEn = true)
    (hp : s.phase = .accum) (hc : s.carry = o :: k) (hl : Config.carryLen ≤ s.carry.length)
    (hw : s.win.length + 1 ≠ Config.winLen) :
    s.pushSample x = { s with carry := k ++ [x], win := s.win ++ [o] } := by
  rw [State.pushSample_full x hs hc hl]
  exact State.handoff_append _ o he hp hw

/-- A block pushed into a window that it does not complete moves as many samples from the front of the carry
and the block to the window, and changes nothing else of the block's state (41_frame_detector.md R122). -/
theorem State.pushBlock_accum (ws : List Word) (hs : s.session = true) (he : s.decodeEn = true)
    (hp : s.phase = .accum) (hc : s.carry.length = Config.carryLen)
    (hw : s.win.length + ws.length < Config.winLen) :
    ∃ r, s.pushBlock ws = { s with
      carry := (s.carry ++ ws.map sampleOf).drop ws.length
      win := s.win ++ (s.carry ++ ws.map sampleOf).take ws.length
      resp := r } := by
  induction ws generalizing s with
  | nil => exact ⟨s.resp, by simp [pushBlock]⟩
  | cons w ws ih =>
    obtain ⟨o, k, hok⟩ := List.exists_cons_of_length_eq_add_one hc
    rw [List.length_cons] at hw
    rw [pushBlock_cons, pushSample_append (sampleOf w) hs he hp hok hc.ge (by omega)]
    obtain ⟨r, hr⟩ := ih (s := State.respond
        { s with carry := k ++ [sampleOf w], win := s.win ++ [o] } .okay) hs he hp
      (by simpa [hok] using hc) (by simp; omega)
    exact ⟨r, by rw [hr]; simp [State.respond, hok]⟩

/-! ### The obligations -/

/-- Settles O22: a PUSH never writes the flags and THRESH, and of the cases of a handoff only the completion
of a window writes a result. -/
theorem pushLeavesResultsUnlessWindowCompletes :
    Obligations.PushLeavesResultsUnlessWindowCompletes := by
  intro w s t h
  obtain rfl := Host.Outcome.next.inj ((exec_push w s).symm.trans h)
  refine ⟨by simp, by simp, by simp, by simp, fun hn => ?_⟩
  have hr := State.pushSample_sameResult (x := sampleOf w)
    fun ⟨hs, he, hp, hw, hc⟩ => hn ⟨hs, he, hp, Nat.succ.inj hw, hc⟩
  exact { hr with }

/-- Settles O29: each PUSH keeps the last 32 of its stream, and so does the block. -/
theorem blockLeavesLast32InCarry : Obligations.BlockLeavesLast32InCarry :=
  fun ws s hs hl => ⟨_, execAll_submit ws s, State.pushBlock_carry ws hs hl⟩

/-- Settles O30: `State.pushBlock_accum` gives the whole state after the block. -/
theorem windowTakesStreamInOrder : Obligations.WindowTakesStreamInOrder := by
  intro ws s hs he hp hc hw
  obtain ⟨r, hr⟩ := State.pushBlock_accum ws hs he hp hc (Nat.lt_succ_of_le hw)
  exact ⟨_, (execAll_submit ws s).trans (congrArg _ hr), hp, rfl, rfl, by constructor <;> rfl⟩

/-- Settles O25: the sample is the low half, and each case of the rule is one of `State.pushSample`. -/
theorem pushFollowsSampleInputRule : Obligations.PushFollowsSampleInputRule := by
  refine fun w s => ⟨sampleOf_toInt w, fun hs => ?_, fun hs hl => ?_, fun x k hs hc hk => ?_⟩
  · rw [exec_push, State.pushSample_idle _ _ hs]
    rfl
  · rw [exec_push, State.pushSample_short _ hs hl]
    rfl
  · have hl : Config.carryLen ≤ s.carry.length := by
      rw [hc]
      exact Nat.succ_le_succ hk
    rw [exec_push, State.pushSample_full _ hs hc hl]
    rfl

end Sys2Proof.Machine
end

section
/-! The frame detector: the probe and the window's start (41_frame_detector.md R120, R121), the completion of
a frame (R123), a codeword from the classification to the host (R125), and the decode outside draws (R126). -/

/-! ### The probe -/

namespace Sys2Proof.Machine

open Sys2Proof.Safety

variable {s : State} {t : BitVec 16} {o : Sample} {k : List Sample}

theorem probeStarts_iff_loudCount (t : BitVec 16) (x : Sample) (carry : List Sample) :
    probeStarts t (probeOf x carry) = true ↔ 4 ≤ loudCount t (x :: carry.take 4) :=
  decide_eq_true_iff

/-- No sample exceeds a threshold of 32768 in absolute value (00_scope.md R11). -/
theorem isLoud_eq_false_of_high (ht : 32768 ≤ t.toNat) (x : Sample) : isLoud t x = false := by
  have hlo : -32768 ≤ sampleValue x := BitVec.le_toInt x
  have hhi : sampleValue x < 32768 := BitVec.toInt_lt
  simp only [isLoud, decide_eq_false_iff_not]
  omega

theorem probeStarts_eq_false_of_high (ht : 32768 ≤ t.toNat) (probe : List Sample) :
    probeStarts t probe = false := by
  have hquiet : probe.filter (isLoud t) = [] :=
    List.filter_eq_nil_iff.2 fun x _ => Bool.eq_false_iff.1 (isLoud_eq_false_of_high ht x)
  rw [probeStarts, hquiet]
  rfl

theorem State.handoff_eq_self_of_high (ht : 32768 ≤ s.thresh.toNat) (hp : s.phase = .scan)
    (x : Sample) : s.handoff x = s := by
  cases he : s.decodeEn with
  | false => exact s.handoff_disabled x he
  | true => exact s.handoff_quiet x he hp (probeStarts_eq_false_of_high ht _)

/-- With no handoff that starts a window, a PUSH writes CARRY at most. -/
theorem State.pushSample_of_high (ht : 32768 ≤ s.thresh.toNat) (hp : s.phase = .scan)
    (x : Sample) : ∃ c, s.pushSample x = { s with carry := c } := by
  rcases s.pushSample_cases x with ⟨_, e⟩ | ⟨_, _, e⟩ | ⟨_, o, k, _, _, e⟩
  · exact ⟨s.carry, e⟩
  · exact ⟨_, e⟩
  · exact ⟨_, e.trans (handoff_eq_self_of_high (s := { s with carry := k ++ [x] }) ht hp o)⟩

/-! ### What a frame decode and FrameComplete can answer -/

theorem checkSentinels_error {cw : Codeword} {e : OutcomeCode × Codeword}
    (h : checkSentinels cw = .error e) : e = (.header, cw) ∨ e = (.trailer, cw) := by
  unfold checkSentinels at h
  split at h
  · exact .inl (Except.error.inj h).symm
  · split at h
    · exact .inr (Except.error.inj h).symm
    · cases h

/-- Assemble never fails with the code OK (44_bit_assembler.md R181). -/
theorem assemble_error_ne_ok {c : List ToneClass} {e : OutcomeCode × Codeword}
    (h : assemble c = .error e) : e.1 ≠ .ok := by
  unfold assemble at h
  split at h
  · cases h; nofun
  split at h
  · cases h; nofun
  split at h
  · cases h; nofun
  · rcases checkSentinels_error h with rfl | rfl <;> nofun

/-- A payload comes with the code OK and with no other (41_frame_detector.md R125). -/
theorem decodeClasses_payload_isSome (c : List ToneClass) :
    (decodeClasses c).payload.isSome = true ↔ (decodeClasses c).code = .ok := by
  unfold decodeClasses
  cases h : assemble c with
  | error e => simpa [finishFrame] using assemble_error_ne_ok h
  | ok cw =>
    rw [finishFrame_ok]
    split <;> simp

theorem frameDecode_payload_of_ne_ok {N : Numerics} {w : List Sample}
    (h : (frameDecode N w t).code ≠ .ok) : (frameDecode N w t).payload = none :=
  Option.not_isSome_iff_eq_none.1 (mt (decodeClasses_payload_isSome _).1 h)

theorem frameDecode_payload_of_ok {N : Numerics} {w : List Sample}
    (h : (frameDecode N w t).code = .ok) : ∃ p, (frameDecode N w t).payload = some p :=
  Option.isSome_iff_exists.1 ((decodeClasses_payload_isSome _).2 h)

/-- FrameComplete where the decode gives a payload (41_frame_detector.md R123). -/
theorem State.frameComplete_of_some {p : BitVec 16}
    (h : (frameDecode s.numerics s.win s.thresh).payload = some p) :
    s.frameComplete = { s with
      lastCode := .ok
      lastCw := (frameDecode s.numerics s.win s.thresh).cw
      mbPayload := p, mbValid := true, win := [], phase := .scan } := by
  have hc := (frameDecode_payload h).1
  simp [frameComplete, writeResult, h, recordOutcome, publish, emptyWindow, hc,
    OutcomeCode.hasCodeword]

/-- FrameComplete where the decode gives no payload (41_frame_detector.md R123). -/
theorem State.frameComplete_of_none
    (h : (frameDecode s.numerics s.win s.thresh).payload = none) :
    s.frameComplete = { s with
      lastCode := (frameDecode s.numerics s.win s.thresh).code
      lastCw := if (frameDecode s.numerics s.win s.thresh).code.hasCodeword
        then (frameDecode s.numerics s.win s.thresh).cw else 0
      win := [], phase := .scan } := by
  simp [frameComplete, writeResult, h, recordOutcome, emptyWindow]

/-- Of the failures exactly HEADER, TRAILER and PARITY record their codeword (46_host_registers.md R233). -/
theorem OutcomeCode.hasCodeword_iff_of_ne_ok {c : OutcomeCode} (h : c ≠ .ok) :
    c.hasCodeword = true ↔ c ∈ [OutcomeCode.header, .trailer, .parity] := by
  cases c
  case ok => exact absurd rfl h
  all_goals decide

/-! ### The completing PUSH -/

/-- The PUSH that completes a window is FrameComplete on the window with the oldest carried sample. -/
theorem State.pushSample_complete (h : AboutToComplete s o k) (x : Sample) :
    s.pushSample x =
      { s with carry := k ++ [x], win := s.win ++ [o] }.frameComplete := by
  have hl : Config.carryLen ≤ s.carry.length := by simp [h.carry, h.kept]
  rw [pushSample_full x h.session h.carry hl]
  exact handoff_complete _ o h.decodeEn h.phase (by simp [h.win])

theorem exec_rdResult (s : State) :
    exec .rdResult s = .next (s.clearMailbox.respond (.rdata (resultWord s))) := rfl

/-! ### A codeword carried by a classification -/

theorem interval_length_le (c : List ToneClass) (n : Nat) : (interval c n).length ≤ 54 :=
  List.length_take_le ..

theorem count_toneA_add_count_toneB_le (v : List ToneClass) :
    v.count .toneA + v.count .toneB ≤ v.length := by
  induction v with
  | nil => rfl
  | cons x v ih => cases x <;> simp <;> omega

/-- A majority of a bit's tone votes the bit (44_bit_assembler.md R185). -/
theorem voteBit_of_majority {v : List ToneClass} {b : Bool} (hl : v.length ≤ 54)
    (h : 28 ≤ v.count (toneOf b)) : voteBit v = some b := by
  have hsum := count_toneA_add_count_toneB_le v
  have hhalf : Config.half = 27 := rfl
  cases b with
  | false =>
    have hA : 28 ≤ v.count .toneA := h
    rw [voteBit, if_neg (by omega), decide_eq_false (by omega)]
  | true =>
    have hB : 28 ≤ v.count .toneB := h
    rw [voteBit, if_neg (by omega), decide_eq_true (by omega)]

theorem getLsbD_ofNat_bitsValue {n : Nat} {l : List Bool} (h : l.length ≤ n) (i : Nat) :
    (BitVec.ofNat n (bitsValue l)).getLsbD i = l.getD i false := by
  rw [BitVec.getLsbD_ofNat, bitsValue_testBit]
  by_cases hi : i < n
  · simp [hi]
  · rw [List.getD_eq_default _ _ (by omega), Bool.and_false]

/-- The bits of a codeword, least significant first. -/
def codewordBits (cw : Codeword) : List Bool := (List.range 15).map cw.getLsbD

theorem ofNat_bitsValue_codewordBits (cw : Codeword) :
    BitVec.ofNat Config.nBits (bitsValue (codewordBits cw)) = cw := by
  apply BitVec.eq_of_getLsbD_eq
  intro i hi
  have hi' : i < 15 := hi
  rw [getLsbD_ofNat_bitsValue (by simp [codewordBits])]
  simp [codewordBits, hi']

variable {c : List ToneClass} {cw : Codeword}

theorem voteBits_of_carries (h : Carries c cw) :
    voteBits Config.nBits (c.drop (bitOrigin c)) = some (codewordBits cw) := by
  refine voteBits_eq_some.2 ⟨by simp [codewordBits], fun n hn => ?_⟩
  have hn' : n < 15 := hn
  rw [List.drop_drop, voteBit_of_majority (interval_length_le c n) (h.2 n hn)]
  simp [codewordBits, hn']

/-- A classification that carries a codeword is not AMBIGUOUS everywhere. -/
theorem not_all_ambiguous_of_carries (h : Carries c cw) :
    ¬ c.all (fun x => decide (x = .ambiguous)) = true := by
  intro hall
  have hmem : toneOf (cw.getLsbD 0) ∈ interval c 0 :=
    List.count_pos_iff.1 (Nat.lt_of_lt_of_le (by decide) (h.2 0 (by decide)))
  have hamb := List.all_eq_true.1 hall _ (List.mem_of_mem_drop (List.mem_of_mem_take hmem))
  exact absurd (of_decide_eq_true hamb) (by cases cw.getLsbD 0 <;> decide)

/-- Assemble reads a carried codeword, so only its sentinels can fail (44_bit_assembler.md R181). -/
theorem assemble_of_carries (h : Carries c cw) : assemble c = checkSentinels cw := by
  have ho : ¬ Config.maxOrigin < bitOrigin c := Nat.not_lt.2 h.1
  rw [assemble, if_neg (not_all_ambiguous_of_carries h), if_neg ho, voteBits_of_carries h]
  simp only [ofNat_bitsValue_codewordBits]

/-! ### The test-only encoder -/

/-- The bits of the candidate of payload `d`, lowest first (45_ecc_decoder.md R206). -/
def encodedBits (d : BitVec Config.payloadW) : List Bool :=
  let b := fun i => d.getLsbD i
  [ !(b 0 ^^ b 1 ^^ b 3 ^^ b 4 ^^ b 6 ^^ b 8),
    !(b 0 ^^ b 2 ^^ b 3 ^^ b 5 ^^ b 6),
    b 0,
    !(b 1 ^^ b 2 ^^ b 3 ^^ b 7 ^^ b 8),
    b 1, b 2, b 3,
    !(b 4 ^^ b 5 ^^ b 6 ^^ b 7 ^^ b 8),
    b 4, b 5, b 6, b 7, b 8 ]

theorem encodeCand_getLsbD (d : BitVec Config.payloadW) (i : Nat) :
    (encodeCand d).getLsbD i = (encodedBits d).getD i false :=
  getLsbD_ofNat_bitsValue (l := encodedBits d) le_rfl i

/-- A number of selected elements is odd exactly where the exclusive or of the selections is true. -/
theorem length_filter_mod_two {α : Type} (p : α → Bool) (l : List α) :
    ((l.filter p).length % 2 == 1) = (l.map p).foldr xor false := by
  induction l with
  | nil => rfl
  | cons a l ih =>
    rw [List.map_cons, List.foldr_cons, ← ih]
    cases h : p a
    · simp [h]
    · rcases Nat.mod_two_eq_zero_or_one (l.filter p).length with hp | hp <;>
        simp [h, Nat.add_mod, hp]

theorem parityOdd_eq_foldr (cand : Candidate) (mask : BitVec 16) :
    parityOdd cand mask =
      ((List.range 16).map fun i => cand.getLsbD i && mask.getLsbD i).foldr xor false := by
  have h : (fun i => (cand.setWidth 16 &&& mask).getLsbD i) =
      fun i => cand.getLsbD i && mask.getLsbD i := by
    funext i
    by_cases hi : i < 16
    · simp [hi, -BitVec.getLsbD_eq_getElem]
    · simp [BitVec.getLsbD_of_ge mask i (by omega)]
  rw [← h]
  exact length_filter_mod_two _ _

/-- The candidate of a payload passes every parity check: a mask selects a redundancy bit and the data bits it
negates the exclusive or of (45_ecc_decoder.md R206). -/
theorem parityPasses_encodeCand (d : BitVec Config.payloadW) :
    parityPasses (encodeCand d) = true := by
  simp [parityPasses, parityOdd_eq_foldr, encodeCand_getLsbD, encodedBits,
    List.range_succ, -BitVec.getLsbD_eq_getElem]

theorem payloadOf_encodeCand (d : BitVec Config.payloadW) :
    payloadOf (encodeCand d) = d.setWidth 16 := by
  have hbits : dataBits.map (fun b => (encodeCand d).getLsbD b) =
      (List.range 9).map d.getLsbD := by
    have hd : dataBits = [2, 4, 5, 6, 8, 9, 10, 11, 12] := by decide
    simp only [hd, encodeCand_getLsbD]
    rfl
  apply BitVec.eq_of_getLsbD_eq
  intro i hi
  rw [payloadOf, hbits, getLsbD_ofNat_bitsValue (by simp)]
  by_cases h9 : i < 9
  · simp [h9, hi]
  · have hd : d.getLsbD i = false := BitVec.getLsbD_of_ge d i (Nat.le_of_not_lt h9)
    simp [h9, hd]

theorem strip_getLsbD (cw : Codeword) {i : Nat} (hi : i < 13) :
    (strip cw).getLsbD i = cw.getLsbD (i + 1) := by
  have hmask : ∀ j < 13, (0x3FFF : Codeword).getLsbD (1 + j) = true := by decide
  rw [strip, BitVec.getLsbD_setWidth, BitVec.getLsbD_ushiftRight, BitVec.getLsbD_and,
    hmask i hi, Bool.and_true, decide_eq_true hi, Bool.true_and, Nat.add_comm]

theorem strip_encodeCodeword (d : BitVec Config.payloadW) :
    strip (encodeCodeword d) = encodeCand d := by
  apply BitVec.eq_of_getLsbD_eq
  intro i hi
  have hi' : i < 13 := hi
  have h0 : ∀ j < 13, (0x4000#15).getLsbD (j + 1) = false := by decide
  have hw : i + 1 < Config.nBits := Nat.succ_lt_succ (Nat.lt_succ_of_lt hi')
  rw [strip_getLsbD _ hi', encodeCodeword, BitVec.getLsbD_or, h0 i hi']
  simp [-BitVec.getLsbD_eq_getElem, hw, Nat.lt_of_succ_lt hw]

theorem checkSentinels_encodeCodeword (d : BitVec Config.payloadW) :
    checkSentinels (encodeCodeword d) = .ok (encodeCodeword d) := by
  simp [checkSentinels, encodeCodeword]

/-- The codeword of a payload decodes to the payload (45_ecc_decoder.md R206). -/
theorem decodeClasses_of_carries {d : BitVec Config.payloadW} (h : Carries c (encodeCodeword d)) :
    decodeClasses c = ⟨.ok, encodeCodeword d, some (d.setWidth 16)⟩ := by
  rw [decodeClasses, assemble_of_carries h, checkSentinels_encodeCodeword, finishFrame_ok,
    strip_encodeCodeword, parityPasses_encodeCand, payloadOf_encodeCand]
  rfl

/-! ### Classify outside draws -/

/-- Where no comparison at an index is a draw, its class is that of the exact energies (43_correlator.md R168,
44_bit_assembler.md R180). -/
theorem classifyWindow_getElem?_of_noDraw {N : Numerics} {b : ℝ} {w : List Sample} {i : Nat}
    (hN : N.Lawful (some b)) (hw : w.length = Config.winLen) (hi : i < Config.winLen)
    (hd : NoDraw w t b i) :
    (classifyWindow N w t)[i]? =
      some (exactClass (Reference.windowEnergy w t .a i) (Reference.windowEnergy w t .b i)) := by
  obtain ⟨x, y, hx, hy⟩ := hN.energies t (hw ▸ hi)
  have h4096 : ((Config.cohThresh : Nat) : ℝ) = 4096 := by norm_num
  have hcoh := hN.coherent_iff b rfl w t i x y hw hx hy (by simpa [h4096] using hd.coherence)
  rw [h4096] at hcoh
  rw [classifyWindow_getElem? hx hy, classifyAt, exactClass]
  by_cases hc : 4096 < Reference.windowEnergy w t .a i + Reference.windowEnergy w t .b i
  · obtain ⟨hab, hba⟩ := hN.above_iff b rfl w t i x y hw hx hy (hd.dominance hc)
    simp only [hcoh, hab, hba]
  · simp only [hcoh, if_neg hc]

theorem classifyWindow_eq_of_noDraw {N M : Numerics} {b : ℝ} {w : List Sample}
    (hN : N.Lawful (some b)) (hM : M.Lawful (some b)) (hw : w.length = Config.winLen)
    (hd : ∀ i < Config.winLen, NoDraw w t b i) : classifyWindow N w t = classifyWindow M w t := by
  have hlN := (classifyWindow_length hN w t).trans hw
  have hlM := (classifyWindow_length hM w t).trans hw
  refine List.ext_getElem? fun i => ?_
  by_cases hi : i < Config.winLen
  · rw [classifyWindow_getElem?_of_noDraw hN hw hi (hd i hi),
      classifyWindow_getElem?_of_noDraw hM hw hi (hd i hi)]
  · rw [List.getElem?_eq_none (by omega), List.getElem?_eq_none (by omega)]

/-! ### The obligations -/

/-- Settles O28: no sample is loud, so no probe starts a window and the PUSH writes CARRY at most. -/
theorem highThresholdNeverStartsFrame : Obligations.HighThresholdNeverStartsFrame := by
  intro w s ht hp
  obtain ⟨c, hc⟩ := State.pushSample_of_high ht hp (sampleOf w)
  exact ⟨_, exec_push w s, by simp [hc, hp], by simp [hc], by constructor <;> simp [hc]⟩

/-- Settles O32: `State.frameComplete_of_some` on OK, `State.frameComplete_of_none` on a failure. -/
theorem frameCompleteWritesOutcome : Obligations.FrameCompleteWritesOutcome := by
  intro s
  refine ⟨decodeClasses_code_ne_none _, fun hok => ?_, fun hne => ?_⟩
  · obtain ⟨p, hp⟩ := frameDecode_payload_of_ok hok
    exact ⟨p, hp, (frameDecode_payload hp).2, State.frameComplete_of_some hp⟩
  · rw [State.frameComplete_of_none (frameDecode_payload_of_ne_ok hne)]
    simp only [OutcomeCode.hasCodeword_iff_of_ne_ok hne]

/-- Settles O33: the PUSH is FrameComplete, which writes the mailbox on a payload only. -/
theorem completingPushDecodesInside : Obligations.CompletingPushDecodesInside := by
  intro w s x k h
  refine ⟨_, exec_push w s, ?_⟩
  rw [State.pushSample_complete h]
  have hcode := State.frameComplete_lastCode
    { s with carry := k ++ [sampleOf w], win := s.win ++ [x] }
  refine ⟨hcode, rfl, rfl, State.frameComplete_carry _, rfl, fun hne => ?_⟩
  rw [State.frameComplete_of_none (frameDecode_payload_of_ne_ok (hcode ▸ hne))]
  exact ⟨rfl, rfl⟩

/-- Settles O34: the classification decodes to the payload (`decodeClasses_of_carries`), the completing PUSH
publishes it, and RD_RESULT reads the mailbox. -/
theorem carriedPayloadIsPublishedAndTaken : Obligations.CarriedPayloadIsPublishedAndTaken := by
  intro w s x k d h hc
  have hdec : frameDecode s.numerics (s.win ++ [x]) s.thresh =
      ⟨.ok, encodeCodeword d, some (d.setWidth 16)⟩ := decodeClasses_of_carries hc
  have hpush := (State.pushSample_complete h (sampleOf w)).trans
    (State.frameComplete_of_some (congrArg FrameResult.payload hdec))
  have hresult : 0x80000000#32 ||| (d.setWidth 16).setWidth 32 =
      0x80000000#32 ||| BitVec.ofNat 32 d.toNat := by simp
  rw [exec_push, hpush]
  exact ⟨_, _, rfl, rfl, congrArg FrameResult.cw hdec, rfl, rfl, rfl, exec_rdResult _, rfl,
    congrArg Response.rdata hresult⟩

/-- Settles O54: both classifications are the exact one at every index. -/
theorem decodeIsReferenceOutsideDraws : Obligations.DecodeIsReferenceOutsideDraws :=
  fun _ b _ _ hN hw hd =>
    congrArg decodeClasses (classifyWindow_eq_of_noDraw hN (Numerics.reference_lawful b) hw hd)

/-- Settles O26: the cases of the rule are the `State.handoff` lemmas, the probe counted as the rule does. -/
theorem handoffProbesOrAccumulates : Obligations.HandoffProbesOrAccumulates := by
  refine fun s x => ⟨s.handoff_disabled x, fun he hp => ?_, fun he hp => ?_⟩
  · split
    case isTrue h => exact s.handoff_start x he hp ((probeStarts_iff_loudCount ..).2 h)
    case isFalse h =>
      exact s.handoff_quiet x he hp
        (Bool.eq_false_iff.2 (mt (probeStarts_iff_loudCount ..).1 h))
  · split
    case isTrue h => exact s.handoff_complete x he hp h
    case isFalse h => exact s.handoff_append x he hp h

/-- Settles O27: the PUSH hands off the oldest sample, whose probe starts the window. -/
theorem windowStartsAtProbedSample : Obligations.WindowStartsAtProbedSample := by
  intro w s x k hs he hp hc hk hloud
  have hl : Config.carryLen ≤ s.carry.length := by simp [hc, hk]
  have hprobe : probeStarts s.thresh (probeOf x (k ++ [sampleOf w])) = true := by
    rw [probeStarts_iff_loudCount, List.take_append_of_le_length (by omega)]
    exact hloud
  have hexec : exec (.push w) s = .next { s with
      carry := k ++ [sampleOf w], phase := .accum, win := [x], resp := .okay } := by
    rw [exec_push, State.pushSample_full _ hs hc hl,
      State.handoff_start { s with carry := k ++ [sampleOf w] } x he hp hprobe]
    rfl
  refine ⟨_, hexec, hexec, ?_⟩
  rw [toNat_extractLsb'_eq_div_mod, statusWord_toNat _ (by simp [hk]) (by simp)]
  simp only [hs, he, hk, Phase.flag, List.length_append, List.length_singleton, Bool.toNat_true]
  have hm := s.mbValid.toNat_le
  omega

end Sys2Proof.Machine
end

section
/-! The AGC (42_agc.md R140 to R145): a window is read as its closed segments, one after the other, and then
the unclosed last one. A fact about the AGC is proved along that reading. -/

namespace Sys2Proof.Machine

variable {b : Bool} {t m v x y : ℚ} {seg rest w ys : List ℚ} {segs : List (List ℚ)}

/-! ### The sign of a segment and the crossing that closes it -/

/-- Every sample of `w` has the `neg` value `b`, so `w` has no crossing (42_agc.md R140). -/
def HasSign (b : Bool) (w : List ℚ) : Prop := ∀ v ∈ w, agcNeg v = b

theorem hasSign_iff_of_map_eq {w' : List ℚ} (h : w'.map agcNeg = w.map agcNeg) :
    HasSign b w' ↔ HasSign b w := by
  have key (l : List ℚ) : HasSign b l ↔ ∀ n ∈ l.map agcNeg, n = b := by simp [HasSign]
  rw [key, key, h]

theorem hasSign_not_agcNeg (h : ∀ v ∈ seg, (v < 0 ↔ ¬ y < 0)) : HasSign (!agcNeg y) seg := by
  intro v hv
  rw [agcNeg, agcNeg, decide_eq_decide.2 (h v hv), decide_not]

/-- `seg` is a segment of one sign that a crossing at `y` closes (42_agc.md R140, R141). -/
def ClosedBy (seg : List ℚ) (y : ℚ) : Prop := seg ≠ [] ∧ HasSign (!agcNeg y) seg

/-- A window read as the AGC reads it: closed segments, then the unclosed last one. -/
inductive Segmented : List ℚ → Prop where
  | unclosed {b : Bool} {w : List ℚ} (h : HasSign b w) : Segmented w
  | closed {seg : List ℚ} {y : ℚ} {rest : List ℚ} (h : ClosedBy seg y)
      (tail : Segmented (y :: rest)) : Segmented (seg ++ y :: rest)

theorem Segmented.cons_cross (h : agcNeg x = !agcNeg y) (hs : Segmented (y :: ys)) :
    Segmented (x :: y :: ys) :=
  .closed (seg := [x]) ⟨by simp, by simpa [HasSign] using h⟩ hs

/-- Every window can be read so: a sample joins the first segment or is closed by it. -/
theorem segmented (w : List ℚ) : Segmented w := by
  induction w with
  | nil => exact .unclosed (b := true) (by simp [HasSign])
  | cons x xs ih =>
    cases xs with
    | nil => exact .unclosed (b := agcNeg x) (by simp [HasSign])
    | cons z zs =>
      by_cases hx : agcNeg x = agcNeg z
      case neg => exact ih.cons_cross (Bool.eq_not.2 hx)
      generalize hw : z :: zs = w at ih ⊢
      cases ih with
      | unclosed h =>
        subst hw
        exact .unclosed (List.forall_mem_cons.2 ⟨hx.trans (h z (by simp)), h⟩)
      | @closed seg y rest h tail =>
        obtain ⟨hne, hsign⟩ := h
        obtain ⟨s, seg, rfl⟩ := List.exists_cons_of_ne_nil hne
        obtain ⟨rfl, -⟩ := List.cons.inj hw
        have hz : agcNeg z = !agcNeg y := hsign z (by simp)
        exact .closed (seg := x :: z :: seg)
          ⟨by simp, List.forall_mem_cons.2 ⟨hx.trans hz, hsign⟩⟩ tail

/-! ### What the AGC does to each kind of segment -/

theorem exists_agcSegments_cons (y : ℚ) (ys : List ℚ) :
    ∃ seg segs, agcSegments (y :: ys) = (y :: seg) :: segs := by
  rcases agcSegments_cons y ys with ⟨_, h⟩ | ⟨z, seg, segs, _, ⟨_, h⟩ | ⟨_, h⟩⟩ <;> exact ⟨_, _, h⟩

theorem agcSegments_cons_same (h : agcNeg x = agcNeg y) (hs : agcSegments (y :: ys) = seg :: segs) :
    agcSegments (x :: y :: ys) = (x :: seg) :: segs := by
  obtain ⟨seg', segs', hy⟩ := exists_agcSegments_cons y ys
  obtain ⟨rfl, rfl⟩ := List.cons.inj (hs.symm.trans hy)
  rw [agcSegments, hs]
  simp [h]

theorem agcSegments_cons_cross (h : agcNeg x = !agcNeg y) :
    agcSegments (x :: y :: ys) = [x] :: agcSegments (y :: ys) := by
  obtain ⟨seg, segs, hy⟩ := exists_agcSegments_cons y ys
  rw [agcSegments, hy]
  simp [h]

theorem agcSegments_of_hasSign (h : HasSign b (y :: ys)) : agcSegments (y :: ys) = [y :: ys] := by
  induction ys generalizing y with
  | nil => rfl
  | cons z zs ih =>
    obtain ⟨hy, hz⟩ := List.forall_mem_cons.1 h
    exact agcSegments_cons_same (hy.trans (hz z (by simp)).symm) (ih hz)

theorem agcSegments_of_closedBy (h : ClosedBy seg y) :
    agcSegments (seg ++ y :: rest) = seg :: agcSegments (y :: rest) := by
  obtain ⟨hne, hsign⟩ := h
  induction seg with
  | nil => contradiction
  | cons x xs ih =>
    obtain ⟨hx, hxs⟩ := List.forall_mem_cons.1 hsign
    cases xs with
    | nil => exact agcSegments_cons_cross hx
    | cons z zs => exact agcSegments_cons_same (hx.trans (hxs z (by simp)).symm) (ih (by simp) hxs)

/-- The unclosed last segment is never rescaled (42_agc.md R143). -/
theorem agcReal_of_hasSign (h : HasSign b w) : agcReal w t = w := by
  cases w with
  | nil => rfl
  | cons y ys => rw [agcReal, agcSegments_of_hasSign h, agcJoin]

/-- A closed segment is treated on its own, whatever follows it (42_agc.md R144). -/
theorem agcReal_of_closedBy (h : ClosedBy seg y) :
    agcReal (seg ++ y :: rest) t = agcCloseSegment t seg ++ agcReal (y :: rest) t := by
  obtain ⟨seg', segs, hy⟩ := exists_agcSegments_cons y rest
  rw [agcReal, agcReal, agcSegments_of_closedBy h, hy, agcJoin]

/-! ### The peak of a segment of one sign -/

theorem upPeak_of_neg (h : HasSign true seg) : upPeak seg = 0 := by
  refine (upPeak_mem seg).elim id fun hmem => ?_
  have hneg : upPeak seg < 0 := by simpa [agcNeg] using h _ hmem
  exact absurd (upPeak_nonneg seg) hneg.not_ge

theorem downPeak_of_nonneg (h : HasSign false seg) : downPeak seg = 0 := by
  refine (downPeak_mem seg).elim id fun hmem => ?_
  have hpos : 0 ≤ downPeak seg := by simpa [agcNeg] using h _ hmem
  exact (downPeak_nonpos seg).antisymm hpos

/-- One of the two peaks is 0, so the span is the largest absolute sample (42_agc.md R141). -/
theorem span_eq_segmentPeak (h : HasSign b seg) : upPeak seg - downPeak seg = segmentPeak seg := by
  have hup := upPeak_nonneg seg
  have hdown := downPeak_nonpos seg
  unfold segmentPeak
  cases b with
  | true => rw [upPeak_of_neg h] at *; split <;> linarith
  | false => rw [downPeak_of_nonneg h] at *; split <;> linarith

theorem segmentPeak_mem (seg : List ℚ) :
    segmentPeak seg = 0 ∨ ∃ v ∈ seg, |v| = segmentPeak seg := by
  have hup := upPeak_nonneg seg
  have hdown := downPeak_nonpos seg
  unfold segmentPeak
  split
  · exact (upPeak_mem seg).imp id fun h => ⟨_, h, abs_of_nonneg hup⟩
  · exact (downPeak_mem seg).imp (by simp) fun h => ⟨_, h, abs_of_nonpos hdown⟩

theorem segmentPeak_le (hm : 0 ≤ m) (h : ∀ v ∈ seg, |v| ≤ m) : segmentPeak seg ≤ m := by
  rcases segmentPeak_mem seg with h0 | ⟨v, hv, hpeak⟩
  · rwa [h0]
  · exact hpeak ▸ h v hv

/-- The peak is the largest absolute sample (42_agc.md R141). -/
theorem segmentPeak_eq (hv : ∃ v ∈ seg, |v| = m) (h : ∀ v ∈ seg, |v| ≤ m) : segmentPeak seg = m := by
  obtain ⟨v, hv, rfl⟩ := hv
  exact (segmentPeak_le (abs_nonneg v) h).antisymm (abs_le_segmentPeak hv)

/-! ### A closed segment -/

theorem agcCloseSegment_of_le (h : HasSign b seg) (ht : segmentPeak seg ≤ t) :
    agcCloseSegment t seg = seg := by
  rw [agcCloseSegment, span_eq_segmentPeak h, if_neg ht.not_gt]

theorem agcCloseSegment_of_lt (h : HasSign b seg) (ht : t < segmentPeak seg) :
    agcCloseSegment t seg = seg.map (fun v => v * 32768 / segmentPeak seg) := by
  rw [agcCloseSegment, span_eq_segmentPeak h, if_pos ht]
  rfl

theorem agcNeg_rescale (hm : 0 < m) (v : ℚ) : agcNeg (v * 32768 / m) = agcNeg v := by
  have hiff : v * 32768 / m < 0 ↔ v < 0 := by
    rw [div_lt_iff₀ hm, zero_mul]
    constructor <;> intro h <;> linarith
  simp [agcNeg, hiff]

theorem abs_rescale (hm : 0 < m) (v : ℚ) : |v * 32768 / m| = |v| / m * 32768 := by
  rw [abs_div, abs_mul, abs_of_pos hm, abs_of_nonneg (by norm_num : (0 : ℚ) ≤ 32768)]
  ring

theorem abs_rescale_le (hm : 0 < m) (hv : |v| ≤ m) : |v * 32768 / m| ≤ 32768 := by
  have := div_le_one_of_le₀ hv hm.le
  rw [abs_rescale hm]
  linarith

/-- The peak of a rescaled segment is full scale (42_agc.md R142 corner case (b)). -/
theorem segmentPeak_rescaled (hm : 0 < segmentPeak seg) :
    segmentPeak (seg.map (fun v => v * 32768 / segmentPeak seg)) = 32768 := by
  obtain ⟨v, hv, hpeak⟩ := (segmentPeak_mem seg).resolve_left hm.ne'
  refine segmentPeak_eq ⟨_, List.mem_map_of_mem hv, ?_⟩ (List.forall_mem_map.2 fun u hu => ?_)
  · rw [abs_rescale hm, hpeak, div_self hm.ne', one_mul]
  · exact abs_rescale_le hm (abs_le_segmentPeak hu)

/-- A positive factor keeps every sign (42_agc.md R145). -/
theorem map_agcNeg_agcCloseSegment (ht : 0 ≤ t) (h : HasSign b seg) :
    (agcCloseSegment t seg).map agcNeg = seg.map agcNeg := by
  rcases le_or_gt (segmentPeak seg) t with hle | hlt
  · rw [agcCloseSegment_of_le h hle]
  · rw [agcCloseSegment_of_lt h hlt, List.map_map]
    exact List.map_congr_left fun v _ => agcNeg_rescale (ht.trans_lt hlt) v

theorem agcCloseSegment_hasSign (ht : 0 ≤ t) (h : HasSign b seg) : HasSign b (agcCloseSegment t seg) :=
  (hasSign_iff_of_map_eq (map_agcNeg_agcCloseSegment ht h)).2 h

theorem abs_agcCloseSegment_le (ht : 0 ≤ t) (h : HasSign b seg) (hseg : ∀ v ∈ seg, |v| ≤ 32768) :
    ∀ v ∈ agcCloseSegment t seg, |v| ≤ 32768 := by
  rcases le_or_gt (segmentPeak seg) t with hle | hlt
  · rwa [agcCloseSegment_of_le h hle]
  · rw [agcCloseSegment_of_lt h hlt, List.forall_mem_map]
    exact fun v hv => abs_rescale_le (ht.trans_lt hlt) (abs_le_segmentPeak hv)

/-- Rescaled once, a segment has the factor 1; left alone once, it is left alone again (42_agc.md R145). -/
theorem agcCloseSegment_idem (ht : 0 ≤ t) (hfull : t < 32768) (h : HasSign b seg) :
    agcCloseSegment t (agcCloseSegment t seg) = agcCloseSegment t seg := by
  rcases le_or_gt (segmentPeak seg) t with hle | hlt
  · rw [agcCloseSegment_of_le h hle, agcCloseSegment_of_le h hle]
  · have hsign := agcCloseSegment_hasSign ht h
    rw [agcCloseSegment_of_lt h hlt] at hsign ⊢
    have hpeak := segmentPeak_rescaled (ht.trans_lt hlt)
    rw [agcCloseSegment_of_lt hsign (hfull.trans_eq hpeak.symm), hpeak]
    simp

/-! ### A whole window -/

/-- The AGC keeps every sign, and with the signs the crossings (42_agc.md R145). -/
theorem map_agcNeg_agcReal (ht : 0 ≤ t) (w : List ℚ) :
    (agcReal w t).map agcNeg = w.map agcNeg := by
  induction segmented w with
  | unclosed h => rw [agcReal_of_hasSign h]
  | closed h tail ih =>
    rw [agcReal_of_closedBy h, List.map_append, List.map_append, ih,
      map_agcNeg_agcCloseSegment ht h.2]

/-- In the AGC's output the same crossing closes the same segment (42_agc.md R145). -/
theorem agcReal_agcReal_of_closedBy (ht : 0 ≤ t) (h : ClosedBy seg y) :
    agcReal (agcReal (seg ++ y :: rest) t) t =
      agcCloseSegment t (agcCloseSegment t seg) ++ agcReal (agcReal (y :: rest) t) t := by
  obtain ⟨hne, hsign⟩ := h
  obtain ⟨y', rest', hout, hy', _⟩ := List.map_eq_cons_iff.1 (map_agcNeg_agcReal ht (y :: rest))
  have hne' : agcCloseSegment t seg ≠ [] := by
    rw [← List.length_pos_iff, agcCloseSegment_length]
    exact List.length_pos_iff.2 hne
  have hclosed : ClosedBy (agcCloseSegment t seg) y' :=
    ⟨hne', hy' ▸ agcCloseSegment_hasSign ht hsign⟩
  rw [agcReal_of_closedBy ⟨hne, hsign⟩, hout, agcReal_of_closedBy hclosed]

theorem agcReal_idem (ht : 0 ≤ t) (hfull : t < 32768) (w : List ℚ) :
    agcReal (agcReal w t) t = agcReal w t := by
  induction segmented w with
  | unclosed h => rw [agcReal_of_hasSign h, agcReal_of_hasSign h]
  | closed h tail ih =>
    rw [agcReal_agcReal_of_closedBy ht h, ih, agcCloseSegment_idem ht hfull h.2,
      agcReal_of_closedBy h]

/-- A threshold that no sample exceeds leaves the window as it is (42_agc.md R142). -/
theorem agcReal_eq_self (ht : 0 ≤ t) (hw : ∀ v ∈ w, |v| ≤ t) : agcReal w t = w := by
  induction segmented w with
  | unclosed h => exact agcReal_of_hasSign h
  | closed h tail ih =>
    obtain ⟨hseg, hrest⟩ := List.forall_mem_append.1 hw
    rw [agcReal_of_closedBy h, agcCloseSegment_of_le h.2 (segmentPeak_le ht hseg), ih hrest]

theorem abs_agcReal_le (ht : 0 ≤ t) (hw : ∀ v ∈ w, |v| ≤ 32768) :
    ∀ v ∈ agcReal w t, |v| ≤ 32768 := by
  induction segmented w with
  | unclosed h => rwa [agcReal_of_hasSign h]
  | closed h tail ih =>
    obtain ⟨hseg, hrest⟩ := List.forall_mem_append.1 hw
    rw [agcReal_of_closedBy h, List.forall_mem_append]
    exact ⟨abs_agcCloseSegment_le ht h.2 hseg, ih hrest⟩

/-! ### The window of int16 samples -/

theorem abs_sampleValue_le (x : Sample) : |(sampleValue x : ℚ)| ≤ 32768 := by
  have hlo : -32768 ≤ sampleValue x := BitVec.le_toInt x
  have hhi : sampleValue x < 32768 := BitVec.toInt_lt
  exact_mod_cast abs_le.2 ⟨hlo, hhi.le⟩

theorem abs_sampleValues_le (w : List Sample) :
    ∀ v ∈ w.map (fun x => (sampleValue x : ℚ)), |v| ≤ 32768 :=
  List.forall_mem_map.2 fun x _ => abs_sampleValue_le x

/-- Settles O42: the first segment is closed by `y`, and its span is `m`. -/
theorem agcRescalesClosedSegment : Obligations.AgcRescalesClosedSegment := by
  intro t m seg rest y _ hpeak hle hcross
  have hsign : HasSign (!agcNeg y) seg := hasSign_not_agcNeg hcross
  have hne : seg ≠ [] := hpeak.elim fun _ h => List.ne_nil_of_mem h.1
  have hm : segmentPeak seg = m := segmentPeak_eq hpeak hle
  rw [agcReal_of_closedBy ⟨hne, hsign⟩]
  split
  case isTrue hlt => rw [agcCloseSegment_of_lt hsign (hm ▸ hlt), hm]
  case isFalse hge => rw [agcCloseSegment_of_le hsign (hm ▸ not_lt.1 hge)]

/-- Settles O43: the window is one unclosed segment. -/
theorem agcLeavesUnclosedSegment : Obligations.AgcLeavesUnclosedSegment := by
  rintro t w (hneg | hpos)
  · exact agcReal_of_hasSign (b := true)
      (List.forall_mem_map.2 fun x hx => by simpa [agcNeg, sampleValue] using hneg x hx)
  · exact agcReal_of_hasSign (b := false)
      (List.forall_mem_map.2 fun x hx => by simpa [agcNeg, sampleValue] using hpos x hx)

/-- Settles O44: by `agcReal_idem` on the samples' values. -/
theorem agcIsIdempotent : Obligations.AgcIsIdempotent :=
  fun _ t ht => agcReal_idem t.toNat.cast_nonneg (by exact_mod_cast ht) _

/-- Settles O45: no int16 sample exceeds 32768. -/
theorem agcHighThresholdRescalesNothing : Obligations.AgcHighThresholdRescalesNothing := by
  intro w t ht
  have hfull : (32768 : ℚ) ≤ t.toNat := by exact_mod_cast ht
  exact agcReal_eq_self t.toNat.cast_nonneg fun v hv => (abs_sampleValues_le w v hv).trans hfull

/-- Settles O46: the AGC keeps the length, and a rescaled sample is at most full scale. -/
theorem agcStaysWithinFullScale : Obligations.AgcStaysWithinFullScale :=
  fun w t => ⟨(agcReal_length _ _).trans (List.length_map _),
    abs_agcReal_le t.toNat.cast_nonneg (abs_sampleValues_le w)⟩

end Sys2Proof.Machine
end

section
/-! The exact reference of the correlator (43_correlator.md R163 to R167) as a sum of complex numbers, and
Classify in the reference and in any lawful arithmetic (R168, 44_bit_assembler.md R180). -/

namespace Sys2Proof.Machine

open Finset

variable {a : List ℚ} {f : Tone} {i : ℕ} {b : ℝ}

/-! ### Means over a block of at most 16 indices -/

/-- The divisor 16 stays where a block is cut off (43_correlator.md R162, R164), so the mean of a block of
at most 16 terms is bounded as each of them is. -/
theorem norm_sum_div_le {E : Type} [SeminormedAddCommGroup E] {s : Finset ℕ} {g : ℕ → E}
    (hs : s.card ≤ 16) (hb : 0 ≤ b) (h : ∀ k ∈ s, ‖g k‖ ≤ b) : ‖∑ k ∈ s, g k‖ / 16 ≤ b := by
  have hcard : (s.card : ℝ) ≤ 16 := by exact_mod_cast hs
  have hsum : ‖∑ k ∈ s, g k‖ ≤ s.card * b := by
    simpa using norm_sum_le_of_le s h
  rw [div_le_iff₀ (by norm_num)]
  nlinarith

theorem card_trailing_le (i : ℕ) : (Icc (i - (Config.intN - 1)) i).card ≤ 16 := by
  rw [Nat.card_Icc]
  change i + 1 - (i - 15) ≤ 16
  omega

theorem card_forward_le (n i : ℕ) :
    (Icc i (min (n - 1) (i + (Config.smoothN - 1)))).card ≤ 16 := by
  rw [Nat.card_Icc]
  change min (n - 1) (i + 15) + 1 - i ≤ 16
  omega

namespace Reference

/-! ### The block magnitude is the modulus of one complex sum -/

/-- `e^(j*phi_f(n))` (43_correlator.md R163). -/
noncomputable def unitPhasor (f : Tone) (phi0 : ℝ) (n : ℕ) : ℂ := Complex.exp (phase f phi0 n * Complex.I)

theorem unitPhasor_re (f : Tone) (phi0 : ℝ) (n : ℕ) :
    (unitPhasor f phi0 n).re = Real.cos (phase f phi0 n) := Complex.exp_ofReal_mul_I_re _

theorem unitPhasor_im (f : Tone) (phi0 : ℝ) (n : ℕ) :
    (unitPhasor f phi0 n).im = Real.sin (phase f phi0 n) := Complex.exp_ofReal_mul_I_im _

theorem norm_unitPhasor (f : Tone) (phi0 : ℝ) (n : ℕ) : ‖unitPhasor f phi0 n‖ = 1 :=
  Complex.norm_exp_ofReal_mul_I _

theorem unitPhasor_zero (f : Tone) : unitPhasor f 0 0 = 1 := by
  simp [unitPhasor, phase]

/-- Incremental accumulation of the phase (43_correlator.md R160). -/
theorem unitPhasor_succ (f : Tone) (n : ℕ) :
    unitPhasor f 0 (n + 1) = unitPhasor f 0 n * Complex.exp (theta f * Complex.I) := by
  rw [unitPhasor, unitPhasor, ← Complex.exp_add, phase, phase]
  push_cast
  ring_nf

theorem unitPhasor_startingPhase (f : Tone) (phi0 : ℝ) (n : ℕ) :
    unitPhasor f phi0 n = unitPhasor f 0 n * Complex.exp (phi0 * Complex.I) := by
  rw [unitPhasor, unitPhasor, ← Complex.exp_add, phase, phase]
  push_cast
  ring_nf

/-- `SUM_{k=i-15..i} A[k] * e^(j*phi_f(k))` (43_correlator.md R163). -/
noncomputable def blockSum (a : List ℚ) (f : Tone) (phi0 : ℝ) (i : ℕ) : ℂ :=
  ∑ k ∈ Icc (i - (Config.intN - 1)) i, at_ a k * unitPhasor f phi0 k

/-- The two forms of the magnitude (43_correlator.md R163). -/
theorem blockMagnitude_eq_norm (a : List ℚ) (f : Tone) (phi0 : ℝ) (i : ℕ) :
    blockMagnitude a f phi0 i = ‖blockSum a f phi0 i‖ / 16 := by
  have hre : (blockSum a f phi0 i).re / 16 = inPhase a f phi0 i := by
    simp [blockSum, inPhase, unitPhasor_re]
  have him : (blockSum a f phi0 i).im / 16 = quadrature a f phi0 i := by
    simp [blockSum, quadrature, unitPhasor_im]
  have hnorm : ‖blockSum a f phi0 i‖ / 16 = ‖blockSum a f phi0 i / (16 : ℝ)‖ := by
    rw [norm_div, Complex.norm_real]
    norm_num
  rw [hnorm, Complex.norm_eq_sqrt_sq_add_sq, Complex.div_ofReal_re, Complex.div_ofReal_im, hre, him,
    blockMagnitude]

/-- The starting phase multiplies a block's sum by a number of modulus 1 (43_correlator.md R167). -/
theorem norm_blockSum_startingPhase (a : List ℚ) (f : Tone) (phi0 : ℝ) (i : ℕ) :
    ‖blockSum a f phi0 i‖ = ‖blockSum a f 0 i‖ := by
  have hfactor : blockSum a f phi0 i = blockSum a f 0 i * Complex.exp (phi0 * Complex.I) := by
    rw [blockSum, blockSum, sum_mul]
    refine sum_congr rfl fun k _ => ?_
    rw [unitPhasor_startingPhase, mul_assoc]
  rw [hfactor, norm_mul, Complex.norm_exp_ofReal_mul_I, mul_one]

/-! ### The exact energies within full scale -/

theorem at_of_lt (hi : i < a.length) : at_ a i = (a[i] : ℚ) := by
  rw [at_, List.getD_eq_getElem _ _ hi]

theorem at_of_le (hi : a.length ≤ i) : at_ a i = 0 := by
  rw [at_, List.getD_eq_default _ _ hi, Rat.cast_zero]

theorem abs_at_le (ha : ∀ x ∈ a, |x| ≤ 32768) (k : ℕ) : |at_ a k| ≤ 32768 := by
  rcases lt_or_ge k a.length with hk | hk
  · rw [at_of_lt hk]
    exact_mod_cast ha _ (List.getElem_mem hk)
  · rw [at_of_le hk]
    norm_num

theorem blockMagnitude_nonneg (a : List ℚ) (f : Tone) (phi0 : ℝ) (i : ℕ) :
    0 ≤ blockMagnitude a f phi0 i := Real.sqrt_nonneg _

theorem blockMagnitude_le (ha : ∀ x ∈ a, |x| ≤ 32768) (f : Tone) (phi0 : ℝ) (i : ℕ) :
    blockMagnitude a f phi0 i ≤ 32768 := by
  rw [blockMagnitude_eq_norm]
  refine norm_sum_div_le (card_trailing_le i) (by norm_num) fun k _ => ?_
  rw [norm_mul, norm_unitPhasor, mul_one, Complex.norm_real]
  exact abs_at_le ha k

theorem energy_nonneg (a : List ℚ) (f : Tone) (i : ℕ) : 0 ≤ energy a f i :=
  div_nonneg (sum_nonneg fun _ _ => blockMagnitude_nonneg ..) (Nat.cast_nonneg _)

theorem energy_le (ha : ∀ x ∈ a, |x| ≤ 32768) (f : Tone) (i : ℕ) : energy a f i ≤ 32768 := by
  have hle (k : ℕ) : ‖blockMagnitude a f 0 k‖ ≤ 32768 := by
    rw [Real.norm_of_nonneg (blockMagnitude_nonneg ..)]
    exact blockMagnitude_le ha f 0 k
  rw [energy, Nat.cast_ofNat]
  refine le_trans ?_ (norm_sum_div_le (card_forward_le a.length i) (by norm_num) fun k _ => hle k)
  gcongr
  exact le_abs_self _

end Reference

/-! ### The obligations -/

/-- Settles O51: the starting phase turns every block's sum by a number of modulus 1. -/
theorem referenceIgnoresStartingPhase : Obligations.ReferenceIgnoresStartingPhase := by
  intro a f phi0 i
  rw [Reference.blockMagnitude_eq_norm, Reference.blockMagnitude_eq_norm,
    Reference.norm_blockSum_startingPhase]

/-- Settles O52: each of the two passes is a mean of values within full scale. -/
theorem referenceEnergyWithinFullScale : Obligations.ReferenceEnergyWithinFullScale :=
  fun a f i ha => ⟨Reference.energy_nonneg a f i, Reference.energy_le ha f i⟩

/-- Classify in the exact reference is the exact rule (44_bit_assembler.md R180). -/
theorem classifyAt_reference (x y : ℝ) :
    classifyAt .reference x y = Safety.exactClass x y := by
  have h4096 : ((Config.cohThresh : Nat) : ℝ) = 4096 := by norm_num
  simp only [classifyAt, Safety.exactClass, Numerics.reference_coherent, Numerics.reference_above, h4096]

/-- Settles O49: an index without a draw has the exact rule's class. -/
theorem classifyIsExactOutsideDraws : Obligations.ClassifyIsExactOutsideDraws := by
  intro N b w t i hN hw hi hd
  rw [List.getD_eq_getElem?_getD, classifyWindow_getElem?_of_noDraw hN hw hi hd, Option.getD_some]

/-- Settles O53: the reference's profiles are the exact energies, and its comparisons are exact. -/
theorem referenceInstanceHasNoDraws : Obligations.ReferenceInstanceHasNoDraws := by
  intro w t i hi
  obtain ⟨x, y, hx, hy⟩ := (Numerics.reference_lawful 0).energies t hi
  rw [List.getD_eq_getElem?_getD, classifyWindow_getElem? hx hy, Option.getD_some,
    ← Numerics.reference_energy hx, ← Numerics.reference_energy hy]
  exact classifyAt_reference x y

end Sys2Proof.Machine
end

section
/-! The phasors of the concrete arithmetic as complex numbers: how far one phase step, and so a whole window of
rotations, can be from the exact phase (43_correlator.md R160, R168). -/

namespace Sys2Proof.Machine

open Finset Reference

/-! ### Rounding down to the grid of `fixOne` -/

theorem fixOne_pos : (0 : ℝ) < fixOne := by norm_num [fixOne]

theorem abs_intDiv_sub_le (n : ℤ) {d : ℤ} (hd : 0 < d) : |((n / d : ℤ) : ℝ) - n / d| ≤ 1 := by
  have hd' : (0 : ℝ) < d := by exact_mod_cast hd
  have hdiv : (d : ℝ) * ((n / d : ℤ) : ℝ) + ((n % d : ℤ) : ℝ) = n := by
    exact_mod_cast Int.mul_ediv_add_emod n d
  have hlo : (0 : ℝ) ≤ ((n % d : ℤ) : ℝ) := by exact_mod_cast Int.emod_nonneg n hd.ne'
  have hhi : ((n % d : ℤ) : ℝ) ≤ d := by exact_mod_cast (Int.emod_lt_of_pos n hd).le
  have herr : ((n / d : ℤ) : ℝ) - n / d = -(((n % d : ℤ) : ℝ) / d) := by
    field_simp
    linarith
  rw [herr, abs_neg, abs_of_nonneg (by positivity)]
  exact div_le_one_of_le₀ hhi hd'.le

theorem abs_toFix_sub_le (q : ℚ) : |(toFix q : ℝ) / fixOne - q| ≤ 1 / fixOne := by
  have hfloor := abs_intDiv_sub_le (q.num * fixOne) (d := q.den) (by exact_mod_cast q.den_pos)
  have hq : ((q.num * fixOne : ℤ) : ℝ) / ((q.den : ℤ) : ℝ) = q * fixOne := by
    conv_rhs => rw [Rat.cast_def]
    push_cast
    ring
  rw [hq] at hfloor
  rw [div_sub' fixOne_pos.ne', abs_div, abs_of_pos fixOne_pos, mul_comm (fixOne : ℝ)]
  gcongr
  exact hfloor

/-- Two coordinates, each within `e`, put a complex number within `2 e`. -/
theorem norm_mk_sub_le {x y e : ℝ} {c : ℂ} (hx : |x - c.re| ≤ e) (hy : |y - c.im| ≤ e) :
    ‖(⟨x, y⟩ : ℂ) - c‖ ≤ 2 * e := by
  refine (Complex.norm_le_abs_re_add_abs_im _).trans ?_
  rw [Complex.sub_re, Complex.sub_im]
  linarith

/-! ### A phasor and its rotation -/

/-- The point of the plane that a phasor stands for. -/
noncomputable def Phasor.value (z : Phasor) : ℂ := ⟨z.1 / fixOne, z.2 / fixOne⟩

theorem Phasor.value_one : Phasor.value ((fixOne : Int), 0) = 1 := by
  have h : (fixOne : ℝ) / fixOne = 1 := div_self fixOne_pos.ne'
  apply Complex.ext <;> simp [Phasor.value, h]

/-- One coordinate of a rotation, rounded down, in the scale of the coordinates. -/
theorem abs_fixDiv_sub_le (n : ℤ) :
    |((n / (fixOne : ℤ) : ℤ) : ℝ) / fixOne - n / (fixOne * fixOne)| ≤ 1 / fixOne := by
  have h := abs_intDiv_sub_le n (d := fixOne) (by decide)
  rw [← div_div, ← sub_div, abs_div, abs_of_pos fixOne_pos]
  gcongr
  exact_mod_cast h

/-- A rotation multiplies, up to its rounding. -/
theorem norm_value_rotate_sub_le (d z : Phasor) :
    ‖(rotate d z).value - z.value * d.value‖ ≤ 2 / fixOne := by
  have hre : (z.value * d.value).re = ((z.1 * d.1 - z.2 * d.2 : ℤ) : ℝ) / (fixOne * fixOne) := by
    simp only [Phasor.value, Complex.mul_re]
    push_cast
    ring
  have him : (z.value * d.value).im = ((z.2 * d.1 + z.1 * d.2 : ℤ) : ℝ) / (fixOne * fixOne) := by
    simp only [Phasor.value, Complex.mul_im]
    push_cast
    ring
  have h := norm_mk_sub_le (hre ▸ abs_fixDiv_sub_le _) (him ▸ abs_fixDiv_sub_le _)
  rwa [mul_one_div] at h

/-! ### The power series of one phase step -/

/-- The two series are the even and the odd terms of the exponential series. -/
theorem sum_expSeries (x : ℚ) (n : ℕ) :
    ∑ m ∈ range (2 * n), ((x : ℂ) * Complex.I) ^ m / (m.factorial : ℂ) =
      (cosSeries x n : ℂ) + (sinSeries x n : ℂ) * Complex.I := by
  induction n with
  | zero => simp [cosSeries, sinSeries]
  | succ n ih =>
    have hI : Complex.I ^ (2 * n) = (-1) ^ n := by rw [pow_mul, Complex.I_sq]
    rw [Nat.mul_succ, sum_range_succ, sum_range_succ, ih, cosSeries, sinSeries, mul_pow, mul_pow,
      pow_succ Complex.I, hI]
    push_cast
    ring

/-- Twenty terms of each series leave a remainder far below the grid. -/
theorem norm_expSeries_sub_le {x : ℚ} (hx : |x| ≤ 1) :
    ‖(cosSeries x 20 : ℂ) + (sinSeries x 20 : ℂ) * Complex.I - Complex.exp ((x : ℂ) * Complex.I)‖ ≤
      1 / 2 ^ 100 := by
  have hnorm : ‖(x : ℂ) * Complex.I‖ ≤ 1 := by
    rw [norm_mul, Complex.norm_I, mul_one, Complex.norm_ratCast]
    exact_mod_cast hx
  have hbound := Complex.exp_bound hnorm (n := 2 * 20) (by norm_num)
  rw [sum_expSeries, norm_sub_rev] at hbound
  refine hbound.trans ((mul_le_of_le_one_left (by positivity) (pow_le_one₀ (norm_nonneg _) hnorm)).trans ?_)
  norm_num [Nat.factorial]

theorem abs_thetaApprox_le (f : Tone) : |thetaApprox f| ≤ 1 := by
  cases f <;> norm_num [thetaApprox, piApprox]

theorem abs_thetaApprox_sub_le (f : Tone) : |(thetaApprox f : ℝ) - theta f| ≤ 1 / 2 ^ 68 := by
  have hlo := Real.pi_gt_d20
  have hhi := Real.pi_lt_d20
  rw [abs_le]
  cases f <;> (norm_num [thetaApprox, piApprox, theta] at *; constructor <;> linarith)

/-- Two unit phasors are no further apart than their phases. -/
theorem norm_exp_sub_exp_le (x y : ℝ) :
    ‖Complex.exp (x * Complex.I) - Complex.exp (y * Complex.I)‖ ≤ |x - y| := by
  have hfactor : Complex.exp (x * Complex.I) - Complex.exp (y * Complex.I) =
      Complex.exp (y * Complex.I) * (Complex.exp (Complex.I * (x - y : ℝ)) - 1) := by
    rw [mul_sub, ← Complex.exp_add, mul_one]
    push_cast
    ring_nf
  rw [hfactor, norm_mul, Complex.norm_exp_ofReal_mul_I, one_mul]
  exact Real.norm_exp_I_mul_ofReal_sub_one_le

/-- The step phasor: its rounding, the series' remainder and the error of `pi` together. -/
theorem norm_value_phasorStep_sub_le (f : Tone) :
    ‖(phasorStep f).value - Complex.exp (theta f * Complex.I)‖ ≤ 3 / fixOne := by
  have hround : ‖(phasorStep f).value -
      ((cosSeries (thetaApprox f) 20 : ℂ) + (sinSeries (thetaApprox f) 20 : ℂ) * Complex.I)‖ ≤
        2 * (1 / fixOne) := by
    refine norm_mk_sub_le ?_ ?_
    · simpa [phasorStep] using abs_toFix_sub_le (cosSeries (thetaApprox f) 20)
    · simpa [phasorStep] using abs_toFix_sub_le (sinSeries (thetaApprox f) 20)
  have hseries := norm_expSeries_sub_le (abs_thetaApprox_le f)
  have hpi := (norm_exp_sub_exp_le (thetaApprox f) (theta f)).trans (abs_thetaApprox_sub_le f)
  rw [Complex.ofReal_ratCast] at hpi
  have hgrid : (1 : ℝ) / 2 ^ 100 + 1 / 2 ^ 68 ≤ 1 / fixOne := by norm_num [fixOne]
  have hsum := (norm_sub_le_norm_sub_add_norm_sub _ _ _).trans
    (add_le_add hround ((norm_sub_le_norm_sub_add_norm_sub _ _ _).trans (add_le_add hseries hpi)))
  calc _ ≤ _ := hsum
    _ ≤ 2 * (1 / (fixOne : ℝ)) + 1 / fixOne := by gcongr
    _ = 3 / fixOne := by ring

/-! ### A window of rotations -/

/-- The phasor at window index `n`. -/
def phasorAt (f : Tone) (n : ℕ) : Phasor := (rotate (phasorStep f))^[n] ((fixOne : Int), 0)

theorem phasorAt_succ (f : Tone) (n : ℕ) : phasorAt f (n + 1) = rotate (phasorStep f) (phasorAt f n) :=
  Function.iterate_succ_apply' ..

/-- One index adds the rotation's rounding and the step phasor's error to an error below one third. -/
theorem norm_value_phasorAt_succ_sub_le {f : Tone} {n : ℕ}
    (h : ‖(phasorAt f n).value - unitPhasor f 0 n‖ ≤ 1 / 3) :
    ‖(phasorAt f (n + 1)).value - unitPhasor f 0 (n + 1)‖ ≤
      ‖(phasorAt f n).value - unitPhasor f 0 n‖ + 6 / fixOne := by
  have hu := fixOne_pos
  set e := Complex.exp (theta f * Complex.I)
  set d := (phasorStep f).value
  set z := (phasorAt f n).value
  set p := unitPhasor f 0 n
  have hrot : ‖(phasorAt f (n + 1)).value - z * d‖ ≤ 2 / fixOne := by
    rw [phasorAt_succ]
    exact norm_value_rotate_sub_le _ _
  have hstep : ‖d - e‖ ≤ 3 / fixOne := norm_value_phasorStep_sub_le f
  have hz : ‖z‖ ≤ 4 / 3 := by
    have h1 : ‖p‖ = 1 := norm_unitPhasor f 0 n
    linarith [norm_le_norm_sub_add z p]
  have hmul : ‖z * d - p * e‖ ≤ 4 / fixOne + ‖z - p‖ := by
    have he : ‖e‖ = 1 := Complex.norm_exp_ofReal_mul_I _
    calc ‖z * d - p * e‖ = ‖z * (d - e) + (z - p) * e‖ := by ring_nf
      _ ≤ ‖z‖ * ‖d - e‖ + ‖z - p‖ * ‖e‖ := by
        rw [← norm_mul, ← norm_mul]
        exact norm_add_le _ _
      _ ≤ 4 / 3 * (3 / fixOne) + ‖z - p‖ := by
        rw [he, mul_one]
        gcongr
      _ = _ := by ring
  rw [unitPhasor_succ]
  calc _ ≤ _ := norm_sub_le_norm_sub_add_norm_sub _ (z * d) _
    _ ≤ 2 / fixOne + (4 / fixOne + ‖z - p‖) := add_le_add hrot hmul
    _ = _ := by ring

/-- The error grows by at most six units of the grid an index. -/
theorem norm_value_phasorAt_sub_le_mul (f : Tone) {n : ℕ} (hn : n ≤ 1101) :
    ‖(phasorAt f n).value - unitPhasor f 0 n‖ ≤ n * (6 / fixOne) := by
  induction n with
  | zero => simp [phasorAt, Phasor.value_one, unitPhasor_zero]
  | succ n ih =>
    have hih := ih (by omega)
    have hsmall : (n : ℝ) * (6 / fixOne) ≤ 1 / 3 := by
      have hn' : (n : ℝ) ≤ 1101 := by exact_mod_cast (by omega : n ≤ 1101)
      norm_num [fixOne]
      linarith
    calc _ ≤ _ := norm_value_phasorAt_succ_sub_le (hih.trans hsmall)
      _ ≤ n * (6 / (fixOne : ℝ)) + 6 / fixOne := by gcongr
      _ = _ := by push_cast; ring

/-- Over a whole window a phasor stays within 2^-50 of the exact one. -/
theorem norm_value_phasorAt_sub_le (f : Tone) {n : ℕ} (hn : n ≤ 1101) :
    ‖(phasorAt f n).value - unitPhasor f 0 n‖ ≤ 1 / 2 ^ 50 := by
  refine (norm_value_phasorAt_sub_le_mul f hn).trans ?_
  have hn' : (n : ℝ) ≤ 1101 := by exact_mod_cast hn
  norm_num [fixOne]
  linarith

/-- Settles O47: each coordinate is as close as the phasor is. -/
theorem phasorsTrackExactPhase : Obligations.PhasorsTrackExactPhase := by
  intro f n hn
  have h := norm_value_phasorAt_sub_le f hn
  have hre := (Complex.abs_re_le_norm _).trans h
  have him := (Complex.abs_im_le_norm _).trans h
  rw [Complex.sub_re, unitPhasor_re] at hre
  rw [Complex.sub_im, unitPhasor_im] at him
  exact ⟨hre, him⟩

end Sys2Proof.Machine
end

section
/-! The profile of the concrete arithmetic against the exact one: its products, its two passes, and from them the
error bound of its comparisons (43_correlator.md R161 to R165, R168). -/

namespace Sys2Proof.Machine

open Finset Reference

variable {a : List ℚ} {f : Tone} {i n : ℕ}

/-! ### A block of a list as a sum over its indices -/

theorem sum_take_eq {M : Type} [AddCommMonoid M] (l : List M) (n : ℕ) :
    (l.take n).sum = ∑ j ∈ range n, l.getD j 0 := by
  induction l generalizing n with
  | nil => simp
  | cons x xs ih =>
    cases n with
    | zero => simp
    | succ n => simp [ih, sum_range_succ', add_comm]

theorem sum_take_drop_eq {M : Type} [AddCommMonoid M] (l : List M) (m n : ℕ) :
    ((l.drop m).take n).sum = ∑ j ∈ Ico m (m + n), l.getD j 0 := by
  rw [sum_take_eq, sum_Ico_eq_sum_range, Nat.add_sub_cancel_left]
  exact sum_congr rfl fun j _ => by simp [List.getD_eq_getElem?_getD]

/-- The block behind an index (43_correlator.md R162). -/
theorem sum_trailing_eq {M : Type} [AddCommMonoid M] {l : List M} (hi : i < l.length) :
    ((l.take (i + 1)).reverse.take Config.intN).sum =
      ∑ j ∈ Icc (i - (Config.intN - 1)) i, l.getD j 0 := by
  change ((l.take (i + 1)).reverse.take 16).sum = ∑ j ∈ Icc (i - 15) i, l.getD j 0
  have hlen : (l.take (i + 1)).length - 16 = i - 15 := by
    rw [List.length_take]
    omega
  have hend : i - 15 + (i + 1 - (i - 15)) = i + 1 := by omega
  rw [List.take_reverse, List.sum_reverse, hlen, List.drop_take, sum_take_drop_eq, hend]
  rfl

/-- The block before an index, cut off at the end of the list (43_correlator.md R164). -/
theorem sum_forward_eq {M : Type} [AddCommMonoid M] (l : List M) (i : ℕ) :
    ((l.drop i).take Config.smoothN).sum =
      ∑ j ∈ Icc i (min (l.length - 1) (i + (Config.smoothN - 1))), l.getD j 0 := by
  change ((l.drop i).take 16).sum = ∑ j ∈ Icc i (min (l.length - 1) (i + 15)), l.getD j 0
  rw [sum_take_drop_eq]
  refine (sum_subset (fun j hj => ?_) fun j hj hout => ?_).symm
  · rw [mem_Icc] at hj
    rw [mem_Ico]
    omega
  · rw [mem_Ico] at hj
    rw [mem_Icc] at hout
    exact List.getD_eq_default _ _ (by omega)

/-! ### The products -/

/-- The point of the plane that a correlation product stands for, in the products' scale. -/
noncomputable def productPoint (p : Int × Int) : ℂ := ⟨p.1, p.2⟩

/-- The products of a profile. -/
def profileProducts (a : List ℚ) (f : Tone) : List (Int × Int) :=
  products (phasorStep f) ((fixOne : Int), 0) a

theorem profileProducts_length (a : List ℚ) (f : Tone) : (profileProducts a f).length = a.length :=
  products_length ..

theorem getD_profileProducts (hi : i < a.length) :
    ((profileProducts a f).map productPoint).getD i 0 =
      (fixOne : ℂ) ^ 2 * (((toFix a[i] : ℝ) / fixOne : ℝ) * (phasorAt f i).value) := by
  have hF : (fixOne : ℝ) ≠ 0 := fixOne_pos.ne'
  rw [List.getD_eq_getElem?_getD, List.getElem?_map, profileProducts, products_getElem?,
    List.getElem?_eq_getElem hi, Option.map_some, Option.map_some, Option.getD_some]
  change productPoint (toFix a[i] * (phasorAt f i).1, toFix a[i] * (phasorAt f i).2) = _
  rw [← Complex.ofReal_natCast, ← Complex.ofReal_pow]
  apply Complex.ext
  · rw [Complex.re_ofReal_mul, Complex.re_ofReal_mul]
    simp only [productPoint, Phasor.value]
    push_cast
    field_simp
  · rw [Complex.im_ofReal_mul, Complex.im_ofReal_mul]
    simp only [productPoint, Phasor.value]
    push_cast
    field_simp

/-- The error of one product: full scale times the phasor's error, and the rounding of the sample. -/
theorem norm_amplitude_mul_sub_le {x : ℚ} (hx : |x| ≤ 32768) (hn : n ≤ 1101) :
    ‖((toFix x : ℝ) / fixOne : ℝ) * (phasorAt f n).value - (x : ℝ) * unitPhasor f 0 n‖ ≤
      1 / 2 ^ 35 + 2 / fixOne := by
  set α : ℝ := (toFix x : ℝ) / fixOne
  set z := (phasorAt f n).value
  set p := unitPhasor f 0 n
  have hα : |α - x| ≤ 1 / fixOne := abs_toFix_sub_le x
  have hx' : |(x : ℝ)| ≤ 32768 := by exact_mod_cast hx
  have hzp : ‖z - p‖ ≤ 1 / 2 ^ 50 := norm_value_phasorAt_sub_le f hn
  have hz : ‖z‖ ≤ 2 := by
    have hp : ‖p‖ = 1 := norm_unitPhasor f 0 n
    linarith [norm_le_norm_sub_add z p]
  have hF := fixOne_pos
  calc ‖α * z - (x : ℝ) * p‖ = ‖((α - x : ℝ) : ℂ) * z + ((x : ℝ) : ℂ) * (z - p)‖ := by
        push_cast
        ring_nf
    _ ≤ |α - x| * ‖z‖ + |(x : ℝ)| * ‖z - p‖ := by
        refine (norm_add_le _ _).trans_eq ?_
        rw [norm_mul, norm_mul, Complex.norm_real, Complex.norm_real, Real.norm_eq_abs, Real.norm_eq_abs]
    _ ≤ 1 / fixOne * 2 + 32768 * (1 / 2 ^ 50) := by gcongr
    _ = _ := by ring

/-! ### The first pass -/

theorem sum_map_productPoint (block : List (Int × Int)) :
    (block.map productPoint).sum =
      ⟨((block.map Prod.fst).sum : ℤ), ((block.map Prod.snd).sum : ℤ)⟩ := by
  induction block with
  | nil => apply Complex.ext <;> simp
  | cons x xs ih =>
    rw [List.map_cons, List.sum_cons, ih]
    apply Complex.ext <;> simp [productPoint]

/-- The integer square root is the modulus of the block's sum, rounded down. -/
theorem abs_magnitude_sub_le (block : List (Int × Int)) :
    |(magnitude block : ℝ) - ‖(block.map productPoint).sum‖| ≤ 1 := by
  have hsq (c q : ℤ) : (c : ℝ) ^ 2 + (q : ℝ) ^ 2 = ((c.natAbs ^ 2 + q.natAbs ^ 2 : ℕ) : ℝ) := by
    rw [Nat.cast_add, Nat.cast_pow, Nat.cast_pow, Nat.cast_natAbs, Nat.cast_natAbs, Int.cast_abs,
      Int.cast_abs, sq_abs, sq_abs]
  rw [sum_map_productPoint, Complex.norm_eq_sqrt_sq_add_sq, hsq, magnitude, isqrt_eq_sqrt,
    ← Real.nat_floor_real_sqrt_eq_nat_sqrt]
  exact Nat.abs_floor_sub_le (Real.sqrt_nonneg _)

/-- The first pass of a profile. -/
def profileMagnitudes (a : List ℚ) (f : Tone) : List ℕ := firstPass [] (profileProducts a f)

theorem profileMagnitudes_length (a : List ℚ) (f : Tone) : (profileMagnitudes a f).length = a.length :=
  (firstPass_length ..).trans (profileProducts_length a f)

/-- The first pass is the modulus of a trailing block's sum, rounded down (43_correlator.md R163). -/
theorem abs_getD_profileMagnitudes_sub_le (hi : i < a.length) :
    |((profileMagnitudes a f).getD i 0 : ℝ) -
      ‖∑ j ∈ Icc (i - (Config.intN - 1)) i, ((profileProducts a f).map productPoint).getD j 0‖| ≤ 1 := by
  have hi' : i < (profileProducts a f).length := (profileProducts_length a f).symm ▸ hi
  rw [← sum_trailing_eq (by rwa [List.length_map]), ← List.map_take, ← List.map_reverse, ← List.map_take,
    List.getD_eq_getElem?_getD, profileMagnitudes, firstPass_getElem? _ _ _ hi', List.append_nil]
  exact abs_magnitude_sub_le _

/-- A block's sum of products against the exact one (43_correlator.md R161, R163). -/
theorem norm_sum_products_sub_le (hlen : a.length ≤ 1102) (ha : ∀ x ∈ a, |x| ≤ 32768)
    (hi : i < a.length) :
    ‖∑ j ∈ Icc (i - (Config.intN - 1)) i, ((profileProducts a f).map productPoint).getD j 0 -
      (fixOne : ℂ) ^ 2 * blockSum a f 0 i‖ / 16 ≤ (fixOne : ℝ) ^ 2 * (1 / 2 ^ 35 + 2 / fixOne) := by
  have hF := fixOne_pos
  rw [blockSum, mul_sum, ← sum_sub_distrib]
  refine norm_sum_div_le (card_trailing_le i) (by positivity) fun j hj => ?_
  have hj' : j < a.length := (mem_Icc.1 hj).2.trans_lt hi
  rw [getD_profileProducts hj', at_of_lt hj', ← mul_sub, norm_mul, norm_pow, Complex.norm_natCast]
  gcongr
  exact norm_amplitude_mul_sub_le (ha _ (List.getElem_mem hj')) (by omega)

/-- The first pass lies within 2^-34 of the exact magnitude (43_correlator.md R163). -/
theorem abs_profileMagnitudes_sub_le (hlen : a.length ≤ 1102) (ha : ∀ x ∈ a, |x| ≤ 32768)
    (hi : i < a.length) :
    |((profileMagnitudes a f).getD i 0 : ℝ) / (fixOne ^ 2 * 16) - blockMagnitude a f 0 i| ≤
      1 / 2 ^ 34 := by
  have hF : (0 : ℝ) < fixOne ^ 2 * 16 := by have := fixOne_pos; positivity
  have hround := abs_getD_profileMagnitudes_sub_le (f := f) hi
  have hsum := norm_sum_products_sub_le (f := f) hlen ha hi
  set m : ℝ := (((profileMagnitudes a f).getD i 0 : ℕ) : ℝ)
  set s := ∑ j ∈ Icc (i - (Config.intN - 1)) i, ((profileProducts a f).map productPoint).getD j 0
  have hnorm : |‖s‖ - fixOne ^ 2 * ‖blockSum a f 0 i‖| ≤
      fixOne ^ 2 * 16 * (1 / 2 ^ 35 + 2 / fixOne) := by
    have hscale : ‖(fixOne : ℂ) ^ 2 * blockSum a f 0 i‖ = fixOne ^ 2 * ‖blockSum a f 0 i‖ := by
      rw [norm_mul, norm_pow, Complex.norm_natCast]
    rw [← hscale]
    linarith [abs_norm_sub_norm_le s ((fixOne : ℂ) ^ 2 * blockSum a f 0 i)]
  have hfrac : m / (fixOne ^ 2 * 16) - ‖blockSum a f 0 i‖ / 16 =
      (m - fixOne ^ 2 * ‖blockSum a f 0 i‖) / (fixOne ^ 2 * 16) := by
    have := fixOne_pos.ne'
    field_simp
  have hgrid : (1 : ℝ) ≤ fixOne ^ 2 * 16 * (1 / fixOne) := by norm_num [fixOne]
  have hbound : (1 : ℝ) / fixOne + (1 / 2 ^ 35 + 2 / fixOne) ≤ 1 / 2 ^ 34 := by norm_num [fixOne]
  rw [blockMagnitude_eq_norm, hfrac, abs_div, abs_of_pos hF, div_le_iff₀ hF]
  have htri := abs_sub_le m ‖s‖ (fixOne ^ 2 * ‖blockSum a f 0 i‖)
  have hmono := mul_le_mul_of_nonneg_left hbound hF.le
  linarith

/-! ### The second pass -/

theorem energy_length (a : List ℚ) (f : Tone) : (energy a f).length = a.length :=
  (secondPass_length _).trans (profileMagnitudes_length a f)

theorem getD_energy (hi : i < a.length) :
    (energy a f).getD i 0 = ∑ j ∈ Icc i (min (a.length - 1) (i + (Config.smoothN - 1))),
      (profileMagnitudes a f).getD j 0 := by
  have hlen := profileMagnitudes_length a f
  have hi' : i < (profileMagnitudes a f).length := hlen.symm ▸ hi
  have hget := secondPass_getElem? _ i hi'
  rw [sum_forward_eq, hlen] at hget
  rw [List.getD_eq_getElem?_getD, energy]
  exact congrArg (·.getD 0) hget

/-- The profile lies within 2^-34 of the exact energy at every index (43_correlator.md R165). -/
theorem abs_energy_sub_le (hlen : a.length ≤ 1102) (ha : ∀ x ∈ a, |x| ≤ 32768) (f : Tone)
    (hi : i < a.length) :
    |(((energy a f).getD i 0 : ℕ) : ℝ) / energyOne - Reference.energy a f i| ≤ 1 / 2 ^ 34 := by
  have hone : ((energyOne : ℕ) : ℝ) = fixOne ^ 2 * 16 * 16 := by
    rw [energyOne]
    push_cast
    rfl
  have hsum : (((energy a f).getD i 0 : ℕ) : ℝ) / energyOne - Reference.energy a f i =
      (∑ j ∈ Icc i (min (a.length - 1) (i + (Config.smoothN - 1))),
        (((profileMagnitudes a f).getD j 0 : ℝ) / (fixOne ^ 2 * 16) - blockMagnitude a f 0 j)) / 16 := by
    rw [sum_sub_distrib, ← sum_div, sub_div, div_div, ← hone, getD_energy hi, Nat.cast_sum]
    rfl
  rw [hsum, abs_div, abs_of_pos (by norm_num : (0 : ℝ) < 16), ← Real.norm_eq_abs]
  refine norm_sum_div_le (card_forward_le a.length i) (by positivity) fun j hj => ?_
  have hj' := (mem_Icc.1 hj).2
  exact abs_profileMagnitudes_sub_le hlen ha (by omega)

/-- Settles O48: each pass is a mean, so it passes on the error of the products. -/
theorem energyTracksExactReference : Obligations.EnergyTracksExactReference :=
  fun f a hlen ha => ⟨energy_length a f, fun _ hi => abs_energy_sub_le hlen ha f hi⟩

/-! ### The comparisons of Classify -/

theorem energyOne_pos : (0 : ℝ) < energyOne := by
  exact_mod_cast (by decide : 0 < energyOne)

/-- An energy of a window in the concrete arithmetic, within 2^-34 of the exact one. -/
theorem abs_windowEnergy_sub_le {w : List Sample} {t : BitVec 16} {x : ℕ}
    (hw : w.length = Config.winLen) (hx : (energy (agc w t) f)[i]? = some x) :
    |(x : ℝ) / energyOne - windowEnergy w t f i| ≤ 1 / 2 ^ 34 := by
  obtain ⟨hlen, hfull⟩ := agcStaysWithinFullScale w t
  have hi : i < (agc w t).length := by
    obtain ⟨hi, -⟩ := List.getElem?_eq_some_iff.1 hx
    rwa [energy_length] at hi
  have h := abs_energy_sub_le (hlen.trans hw).le hfull f hi
  rwa [List.getD_eq_getElem?_getD, hx, Option.getD_some] at h

/-- Operands `x` and `y`, known up to 2^-33 together, compare as the exact ones `p` and `q` do where these are
2^-32 apart (43_correlator.md R168). -/
theorem lt_iff_lt_of_apart {x y p q : ℝ} (herr : |(y - x) - (q - p)| ≤ 1 / 2 ^ 33)
    (h : 1 / 2 ^ 32 ≤ |q - p|) : x < y ↔ p < q := by
  obtain ⟨hlo, hhi⟩ := abs_le.1 herr
  rcases le_abs.1 h with h | h
  · exact iff_of_true (by linarith) (by linarith)
  · exact iff_of_false (by linarith) (by linarith)

theorem fixedPoint_coherent (x y : ℕ) :
    Numerics.fixedPoint.coherent x y = true ↔
      (Config.cohThresh : ℝ) < (x : ℝ) / energyOne + (y : ℝ) / energyOne := by
  rw [← add_div, lt_div_iff₀ energyOne_pos]
  exact decide_eq_true_iff.trans (by exact_mod_cast Iff.rfl)

theorem fixedPoint_above (x y : ℕ) :
    Numerics.fixedPoint.above x y = true ↔ (y : ℝ) / energyOne < (x : ℝ) / energyOne := by
  rw [div_lt_div_iff_of_pos_right energyOne_pos, Nat.cast_lt]
  exact decide_eq_true_iff

/-- Settles O55: two energies are known up to 2^-33 together, and a comparison 2^-32 apart is not changed by it. -/
theorem fixedPointIsLawful : Obligations.FixedPointIsLawful where
  agc_length w t := (agcStaysWithinFullScale w t).1
  energy_length := energy_length
  coherent_iff := by
    rintro b ⟨⟩ w t i x y hw hx hy h
    obtain ⟨hxlo, hxhi⟩ := abs_le.1 (abs_windowEnergy_sub_le hw hx)
    obtain ⟨hylo, hyhi⟩ := abs_le.1 (abs_windowEnergy_sub_le hw hy)
    refine (fixedPoint_coherent x y).trans (lt_iff_lt_of_apart (abs_le.2 ?_) h)
    constructor <;> linarith
  above_iff := by
    rintro b ⟨⟩ w t i x y hw hx hy h
    obtain ⟨hxlo, hxhi⟩ := abs_le.1 (abs_windowEnergy_sub_le hw hx)
    obtain ⟨hylo, hyhi⟩ := abs_le.1 (abs_windowEnergy_sub_le hw hy)
    refine ⟨(fixedPoint_above x y).trans (lt_iff_lt_of_apart (abs_le.2 ?_) h),
      (fixedPoint_above y x).trans (lt_iff_lt_of_apart (abs_le.2 ?_) (by rwa [abs_sub_comm]))⟩ <;>
      constructor <;> linarith

end Sys2Proof.Machine
end

section
/-! The bit assembler (44_bit_assembler.md R181 to R188): the origin, the vote of an interval, the first failure
of Assemble, and a window that is nowhere coherent. -/

namespace Sys2Proof.Machine

open Sys2Proof.Safety

variable {c v : List ToneClass} {cw : Codeword} {b : Bool}

/-! ### The vote of one interval -/

theorem voteBit_eq_none_iff (v : List ToneClass) :
    voteBit v = none ↔ v.count .toneA ≤ 27 ∧ v.count .toneB ≤ 27 := by
  simp [voteBit, show Config.half = 27 from rfl]

/-- Of an interval's 54 indices a vote has the majority: were it short of 28, the other tone would have 28 and
win, or neither would and there would be no vote (44_bit_assembler.md R185). -/
theorem voteBit_eq_some_iff (hl : v.length ≤ 54) :
    voteBit v = some b ↔ 28 ≤ v.count (toneOf b) := by
  refine ⟨fun hv => ?_, voteBit_of_majority hl⟩
  by_contra hb
  by_cases hother : 28 ≤ v.count (toneOf !b)
  · have hwin := voteBit_of_majority hl hother
    rw [hv, Option.some_inj] at hwin
    exact Bool.not_ne_self b hwin.symm
  · have hnone : voteBit v = none := by
      rw [voteBit_eq_none_iff]
      cases b with
      | false => exact ⟨Nat.le_of_not_lt hb, Nat.le_of_not_lt hother⟩
      | true => exact ⟨Nat.le_of_not_lt hother, Nat.le_of_not_lt hb⟩
    rw [hv] at hnone
    cases hnone

/-! ### The outcome of Assemble -/

theorem assemble_of_all_ambiguous (h : ∀ x ∈ c, x = .ambiguous) :
    assemble c = .error (.noSignal, 0) := by
  rw [assemble, if_pos (by simpa using h)]

theorem all_ambiguous_eq_false (h : ∃ x ∈ c, x ≠ .ambiguous) :
    c.all (fun x => decide (x = .ambiguous)) = false := by
  simpa using h

theorem assemble_of_late_origin (h : ∃ x ∈ c, x ≠ .ambiguous) (ho : Config.maxOrigin < bitOrigin c) :
    assemble c = .error (.truncated, 0) := by
  rw [assemble, all_ambiguous_eq_false h, if_neg Bool.false_ne_true, if_pos ho]

theorem assemble_of_no_majority (h : ∃ x ∈ c, x ≠ .ambiguous)
    (ho : bitOrigin c ≤ Config.maxOrigin)
    (hk : ∃ k < 15, voteBit (interval c k) = none) : assemble c = .error (.bitAmbig, 0) := by
  have hvotes : voteBits Config.nBits (c.drop (bitOrigin c)) = none := by
    simpa only [voteBits_eq_none, List.drop_drop] using hk
  rw [assemble, all_ambiguous_eq_false h, if_neg Bool.false_ne_true, if_neg (Nat.not_lt.2 ho),
    hvotes]

/-- Where every interval has a majority, the classification carries the codeword of the larger counts. -/
theorem carries_of_counts (ho : bitOrigin c ≤ 292)
    (hmaj : ∀ k < 15, ¬ ((interval c k).count .toneA ≤ 27 ∧ (interval c k).count .toneB ≤ 27))
    (hcw : ∀ k < 15, cw.getLsbD k =
      decide ((interval c k).count .toneA < (interval c k).count .toneB)) : Carries c cw := by
  refine ⟨ho, fun k hk => ?_⟩
  have hm := hmaj k hk
  rw [hcw k hk]
  by_cases hlt : (interval c k).count .toneA < (interval c k).count .toneB
  · rw [decide_eq_true hlt]
    change 28 ≤ (interval c k).count .toneB
    omega
  · rw [decide_eq_false hlt]
    change 28 ≤ (interval c k).count .toneA
    omega

/-! ### A window that is nowhere coherent -/

theorem exactClass_of_le {ea eb : ℝ} (h : ea + eb ≤ 4096) : exactClass ea eb = .ambiguous :=
  if_neg (not_lt.2 h)

/-- An index of a sum at most 4096 makes no comparison of dominance, so only its coherence could be a draw
(44_bit_assembler.md R180). -/
theorem noDraw_of_incoherent {w : List Sample} {t : BitVec 16} {e : ℝ} {i : Nat}
    (hle : Reference.windowEnergy w t .a i + Reference.windowEnergy w t .b i ≤ 4096)
    (he : e ≤ |Reference.windowEnergy w t .a i + Reference.windowEnergy w t .b i - 4096|) :
    NoDraw w t e i where
  coherence := he
  dominance hlt := absurd hlt (not_lt.2 hle)

/-! ### The obligations -/

/-- Settles O36: a failure is the check's own lemma, and otherwise the classification carries the codeword, whose
sentinels alone can fail (`assemble_of_carries`). -/
theorem assembleReportsFirstFailure : Obligations.AssembleReportsFirstFailure := by
  refine fun c => ⟨assemble_of_all_ambiguous, assemble_of_late_origin, fun h ho hk => ?_,
    fun cw _ ho hmaj hcw => assemble_of_carries (carries_of_counts ho hmaj hcw)⟩
  simp only [← voteBit_eq_none_iff] at hk
  exact assemble_of_no_majority h ho hk

/-- Settles O37: the origin is the index that `List.findIdx` finds. -/
theorem originIsFirstUnambiguous : Obligations.OriginIsFirstUnambiguous := by
  intro cs o ho
  have hget (j : Nat) (hj : j ≤ o) : cs.getD j .ambiguous = cs[j]'(by omega) :=
    List.getD_eq_getElem _ _ (by omega)
  rw [bitOrigin, List.findIdx_eq ho, hget o le_rfl]
  simp only [decide_eq_true_eq, decide_eq_false_iff_not, not_not]
  exact and_congr_right fun _ => forall₂_congr fun j hj => by rw [hget j hj.le]

/-- Settles O38: `voteBit_eq_some_iff` at each bit, and `voteBit_eq_none_iff`. -/
theorem voteNeedsTwentyEight : Obligations.VoteNeedsTwentyEight :=
  fun v hl => ⟨voteBit_eq_some_iff hl, voteBit_eq_some_iff hl, voteBit_eq_none_iff v⟩

/-- Settles O50: no index is a draw, so each has the exact class, which is AMBIGUOUS. -/
theorem incoherentWindowHasNoSignal : Obligations.IncoherentWindowHasNoSignal := by
  intro N e w t hN hw hquiet
  have hall : ∀ x ∈ classifyWindow N w t, x = .ambiguous := by
    intro x hx
    obtain ⟨i, hlt, hget⟩ := List.mem_iff_getElem.1 hx
    have hi : i < 1102 := hlt.trans_eq ((classifyWindow_length hN w t).trans hw)
    obtain ⟨hle, he⟩ := hquiet i hi
    have hclass := classifyWindow_getElem?_of_noDraw hN hw hi (noDraw_of_incoherent hle he)
    rw [List.getElem?_eq_some_iff.2 ⟨hlt, hget⟩, exactClass_of_le hle] at hclass
    exact Option.some_inj.1 hclass
  rw [frameDecode, decodeClasses, assemble_of_all_ambiguous hall]
  rfl

/-- Settles O39: bit `i` of Strip is codeword bit `i + 1` (`strip_getLsbD`). -/
theorem stripTakesMiddleBits : Obligations.StripTakesMiddleBits := by
  intro cw
  apply BitVec.eq_of_getLsbD_eq
  intro i hi
  have hi' : i < 13 := hi
  rw [strip_getLsbD cw hi', BitVec.getLsbD_extractLsb', decide_eq_true hi', Bool.true_and,
    Nat.add_comm]

end Sys2Proof.Machine
end

section
/-! The parity-check decoder (45_ecc_decoder.md R204 to R206): the checks are linear, so a change of a passing
candidate is found by the checks of the changed bits alone, and a payload has one passing candidate. -/

namespace Sys2Proof.Machine

variable {x y cand flips : Candidate} {cw : Codeword} {a b i k : Nat}

/-! ### The checks are linear -/

theorem foldr_xor_map_xor {α : Type} (f g : α → Bool) (l : List α) :
    (l.map fun i => f i ^^ g i).foldr xor false =
      ((l.map f).foldr xor false ^^ (l.map g).foldr xor false) := by
  induction l with
  | nil => rfl
  | cons i l ih => simp [ih, Bool.xor_left_comm]

theorem parityOdd_xor (x y : Candidate) (mask : BitVec 16) :
    parityOdd (x ^^^ y) mask = (parityOdd x mask ^^ parityOdd y mask) := by
  simp only [parityOdd_eq_foldr, ← foldr_xor_map_xor, BitVec.getLsbD_xor,
    Bool.and_xor_distrib_right]

theorem parityPasses_iff : parityPasses cand = true ↔
    ∀ j : Fin 4, parityOdd cand Config.masks[j] = true := by
  rw [parityPasses, List.all_eq_true, List.forall_mem_iff_getElem, Fin.forall_iff]
  rfl

/-- A change of a passing candidate fails where some mask holds an odd number of the changed bits
(45_ecc_decoder.md R204). -/
theorem parityPasses_xor_eq_false (h : parityPasses cand = true) (j : Fin 4)
    (hj : parityOdd flips Config.masks[j] = true) : parityPasses (cand ^^^ flips) = false := by
  rw [Bool.eq_false_iff, ne_eq, parityPasses_iff]
  intro hall
  have hodd := hall j
  rw [parityOdd_xor, parityPasses_iff.1 h j, hj] at hodd
  cases hodd

/-! ### One or two flipped bits -/

theorem getLsbD_xor_ofNat_two_pow {n : Nat} (v : BitVec n) (hi : i < n) :
    (v ^^^ BitVec.ofNat n (2 ^ k)).getLsbD i = (v.getLsbD i ^^ decide (k = i)) := by
  rw [BitVec.getLsbD_xor, BitVec.getLsbD_ofNat, decide_eq_true hi, Bool.true_and,
    Nat.testBit_two_pow]

/-- Mask `j` holds bit `k` exactly where bit `j` of the position `k + 1` is 1 (45_ecc_decoder.md R204). -/
theorem parityOdd_two_pow : ∀ k < 13, ∀ j : Fin 4,
    parityOdd (BitVec.ofNat 13 (2 ^ k)) Config.masks[j] = (k + 1).testBit j := by
  decide

/-- Two numbers of four bits that differ do so in one of the bits. -/
theorem exists_testBit_ne {m n : Nat} (hm : m < 2 ^ 4) (hn : n < 2 ^ 4) (hne : m ≠ n) :
    ∃ j : Fin 4, m.testBit j ≠ n.testBit j := by
  by_contra! heq
  refine hne (Nat.eq_of_testBit_eq fun j => ?_)
  by_cases hj : j < 4
  · exact heq ⟨j, hj⟩
  · have hpow : 2 ^ 4 ≤ 2 ^ j := Nat.pow_le_pow_right (by decide) (Nat.le_of_not_lt hj)
    rw [Nat.testBit_lt_two_pow (hm.trans_le hpow), Nat.testBit_lt_two_pow (hn.trans_le hpow)]

/-- The position of the flipped bit is not 0, so a mask holds it. -/
theorem parityPasses_flip (h : parityPasses cand = true) (ha : a < 13) :
    parityPasses (cand ^^^ BitVec.ofNat 13 (2 ^ a)) = false := by
  obtain ⟨j, hj⟩ := exists_testBit_ne (n := 0) (by omega) (by decide) (Nat.succ_ne_zero a)
  refine parityPasses_xor_eq_false h j ?_
  rw [parityOdd_two_pow a ha]
  simpa using hj

/-- The positions of the flipped bits differ, so a mask holds only one of them. -/
theorem parityPasses_flip_flip (h : parityPasses cand = true) (ha : a < 13) (hb : b < 13)
    (hab : a ≠ b) :
    parityPasses (cand ^^^ BitVec.ofNat 13 (2 ^ a) ^^^ BitVec.ofNat 13 (2 ^ b)) = false := by
  obtain ⟨j, hj⟩ := exists_testBit_ne (by omega) (by omega) (Nat.succ_ne_succ_iff.2 hab)
  rw [BitVec.xor_assoc]
  refine parityPasses_xor_eq_false h j ?_
  rw [parityOdd_xor, parityOdd_two_pow a ha, parityOdd_two_pow b hb]
  exact Bool.xor_iff_ne.2 hj

/-! ### The one passing candidate of a payload -/

theorem payloadOf_eq_iff : payloadOf x = payloadOf y ↔
    ∀ n ∈ dataBits, x.getLsbD n = y.getLsbD n := by
  refine ⟨fun h => List.map_inj_left.1 (List.ext_getElem (by simp) fun n hx hy => ?_),
    fun h => by rw [payloadOf, payloadOf, List.map_inj_left.2 h]⟩
  have hbit := congrArg (BitVec.getLsbD · n) h
  have hlen : ∀ z : Candidate, (dataBits.map fun b => z.getLsbD b).length ≤ 16 := fun z => by
    simp [dataBits_length]
  simp only [payloadOf, getLsbD_ofNat_bitsValue (hlen _)] at hbit
  rwa [List.getD_eq_getElem _ _ hx, List.getD_eq_getElem _ _ hy] at hbit

/-- Without data bits a mask meets its own redundancy bit alone (45_ecc_decoder.md R204). -/
theorem parityOdd_of_dataBits_eq_zero (h : ∀ n ∈ dataBits, cand.getLsbD n = false) (j : Fin 4) :
    parityOdd cand Config.masks[j] = cand.getLsbD (2 ^ j.val - 1) := by
  have hd : dataBits = [2, 4, 5, 6, 8, 9, 10, 11, 12] := by decide
  have htop : cand.getLsbD 14 = false := BitVec.getLsbD_of_ge cand 14 (by decide)
  simp only [hd, List.forall_mem_cons] at h
  fin_cases j <;>
    simp [parityOdd_eq_foldr, List.range_succ, h, htop, -BitVec.getLsbD_eq_getElem]

/-- Two passing candidates of one payload differ in no data bit, so the checks find no redundancy bit in which
they differ either (45_ecc_decoder.md R204). -/
theorem eq_of_payloadOf_eq (hx : parityPasses x = true) (hy : parityPasses y = true)
    (h : payloadOf x = payloadOf y) : x = y := by
  have hdata : ∀ n ∈ dataBits, (x ^^^ y).getLsbD n = false := fun n hn => by
    rw [BitVec.getLsbD_xor, payloadOf_eq_iff.1 h n hn, Bool.xor_self]
  have heven : ∀ j : Fin 4, parityOdd (x ^^^ y) Config.masks[j] = false := fun j => by
    rw [parityOdd_xor, parityPasses_iff.1 hx j, parityPasses_iff.1 hy j, Bool.xor_self]
  have hbits : ∀ n < 13, n ∈ dataBits ∨ ∃ j : Fin 4, n = 2 ^ j.val - 1 := by decide
  refine BitVec.xor_eq_zero_iff.1 (BitVec.eq_of_getLsbD_eq fun n hn => ?_)
  rw [BitVec.getLsbD_zero]
  obtain hmem | ⟨j, rfl⟩ := hbits n hn
  · exact hdata n hmem
  · rw [← parityOdd_of_dataBits_eq_zero hdata, heven]

theorem eccDecode_of_parityPasses (h : parityPasses cand = true) :
    eccDecode cand = payloadOf cand := if_pos h

theorem eccDecode_ne_failWord : eccDecode cand ≠ 0xFFFF#16 ↔ parityPasses cand = true := by
  rw [ne_eq, eccDecode_eq_failWord, Bool.not_eq_false]

/-- A candidate that passes is the one the test-only encoder gives its payload (45_ecc_decoder.md R206). -/
theorem encodeCand_payloadOf (h : parityPasses cand = true) :
    encodeCand ((payloadOf cand).setWidth 9) = cand := by
  have hwidth : ((payloadOf cand).setWidth 9).setWidth 16 = payloadOf cand := by
    have hle := payloadOf_le cand
    apply BitVec.eq_of_toNat_eq
    rw [BitVec.toNat_setWidth, BitVec.toNat_setWidth]
    omega
  exact eq_of_payloadOf_eq (parityPasses_encodeCand _) h ((payloadOf_encodeCand _).trans hwidth)

/-! ### A codeword with one bit flipped -/

theorem checkSentinels_of_header (h : cw.getLsbD 0 = true) :
    checkSentinels cw = .error (.header, cw) := if_pos h

theorem checkSentinels_of_trailer (h0 : cw.getLsbD 0 = false) (h14 : cw.getLsbD 14 = false) :
    checkSentinels cw = .error (.trailer, cw) := by
  simp only [checkSentinels, h0, h14, Bool.false_eq_true, if_false, if_true]

theorem checkSentinels_of_both (h0 : cw.getLsbD 0 = false) (h14 : cw.getLsbD 14 = true) :
    checkSentinels cw = .ok cw := by
  simp only [checkSentinels, h0, h14, Bool.false_eq_true, Bool.true_eq_false, if_false]

theorem encodeCodeword_header (d : BitVec Config.payloadW) :
    (encodeCodeword d).getLsbD 0 = false := by simp [encodeCodeword]

theorem encodeCodeword_trailer (d : BitVec Config.payloadW) :
    (encodeCodeword d).getLsbD 14 = true := by simp [encodeCodeword]

/-- Codeword bit `k` is candidate bit `k - 1` (45_ecc_decoder.md R205). -/
theorem strip_flip (cw : Codeword) (k : Nat) :
    strip (cw ^^^ BitVec.ofNat 15 (2 ^ (k + 1))) = strip cw ^^^ BitVec.ofNat 13 (2 ^ k) := by
  apply BitVec.eq_of_getLsbD_eq
  intro n hn
  have hn' : n < 13 := hn
  have hw : n + 1 < Config.nBits := Nat.succ_lt_succ (Nat.lt_succ_of_lt hn')
  rw [strip_getLsbD _ hn', getLsbD_xor_ofNat_two_pow cw hw, getLsbD_xor_ofNat_two_pow _ hn,
    strip_getLsbD _ hn', decide_eq_decide.2 Nat.succ_inj]

/-- The outcome of the codeword of a payload with bit `k` flipped (45_ecc_decoder.md R205). -/
theorem finishFrame_flip_code (d : BitVec Config.payloadW) (hk : k < 15) :
    (finishFrame (checkSentinels (encodeCodeword d ^^^ BitVec.ofNat 15 (2 ^ k)))).code =
      if k = 0 then .header else if k = 14 then .trailer else .parity := by
  have hbit0 := getLsbD_xor_ofNat_two_pow (k := k) (encodeCodeword d) (i := 0) (by decide)
  have hbit14 := getLsbD_xor_ofNat_two_pow (k := k) (encodeCodeword d) (i := 14) (by decide)
  rw [encodeCodeword_header, Bool.false_xor] at hbit0
  rw [encodeCodeword_trailer, Bool.true_xor] at hbit14
  split
  case isTrue h0 =>
    rw [checkSentinels_of_header (hbit0.trans (decide_eq_true h0))]
    rfl
  case isFalse h0 =>
    rw [decide_eq_false h0] at hbit0
    split
    case isTrue h14 =>
      rw [decide_eq_true h14] at hbit14
      rw [checkSentinels_of_trailer hbit0 hbit14]
      rfl
    case isFalse h14 =>
      rw [decide_eq_false h14] at hbit14
      obtain ⟨n, rfl⟩ := Nat.exists_eq_succ_of_ne_zero h0
      rw [checkSentinels_of_both hbit0 hbit14, finishFrame_ok, strip_flip, strip_encodeCodeword,
        parityPasses_flip (parityPasses_encodeCand d) (by omega)]
      rfl

/-! ### The obligations -/

/-- Settles O35: Assemble reads the carried codeword (`assemble_of_carries`), its outcome is
`finishFrame_flip_code`, and only OK comes with a payload. -/
theorem flippedCodewordBitNeverPublishes : Obligations.FlippedCodewordBitNeverPublishes := by
  intro c d k hk hc
  have hcode := finishFrame_flip_code d hk
  rw [← assemble_of_carries hc] at hcode
  refine ⟨Option.not_isSome_iff_eq_none.1 (mt (decodeClasses_payload_isSome c).1 ?_), hcode⟩
  rw [decodeClasses, hcode]
  split_ifs <;> decide

/-- Settles O40: the encoder's candidate passes with its payload, and it is the only one that does. -/
theorem eachPayloadHasOneCandidate : Obligations.EachPayloadHasOneCandidate := by
  refine ⟨fun d => ?_, fun cand h => ?_⟩
  · rw [eccDecode_of_parityPasses (parityPasses_encodeCand d), payloadOf_encodeCand]
  · have hp := eccDecode_ne_failWord.1 h
    rw [eccDecode_of_parityPasses hp]
    exact ⟨(encodeCand_payloadOf hp).symm, payloadOf_le cand⟩

/-- Settles O41: the changed candidate fails a check. -/
theorem oneOrTwoFlipsFail : Obligations.OneOrTwoFlipsFail := by
  intro cand a b ha hb h
  have hp := eccDecode_ne_failWord.1 h
  exact ⟨(eccDecode_eq_failWord _).2 (parityPasses_flip hp ha),
    fun hab => (eccDecode_eq_failWord _).2 (parityPasses_flip_flip hp ha hb hab)⟩

end Sys2Proof.Machine
end

section
/-! The host registers: the next state of each operation (46_host_registers.md R220 to R232) and what RESULT and
LAST_OUTCOME read (10_state.md R39, R40). -/

namespace Sys2Proof.Machine

variable {s : State} {w : Word}

/-! ### The writes, case by case -/

theorem exec_wrCtrl_enable (h : enableOf w = true) :
    exec (.wrCtrl w) s = .next ({ s with decodeEn := true }.respond .okay) :=
  if_pos h

theorem exec_wrCtrl_disable (h : enableOf w = false) :
    exec (.wrCtrl w) s = .next ({ s.emptyWindow with decodeEn := false }.respond .okay) :=
  if_neg (Bool.not_eq_true _ ▸ h)

theorem exec_wrCmd_start (h : startOf w = true) :
    exec (.wrCmd w) s = .next (s.startSession.respond .okay) :=
  if_pos h

theorem exec_wrCmd_stop (h : startOf w = false) (h' : stopOf w = true) :
    exec (.wrCmd w) s = .next (s.stopSession.respond .okay) :=
  (if_neg (Bool.not_eq_true _ ▸ h)).trans (if_pos h')

theorem exec_wrCmd_noCommand (h : startOf w = false) (h' : stopOf w = false) :
    exec (.wrCmd w) s = .next (s.respond .okay) :=
  (if_neg (Bool.not_eq_true _ ▸ h)).trans (if_neg (Bool.not_eq_true _ ▸ h'))

theorem exec_wrThresh (w : Word) (s : State) :
    exec (.wrThresh w) s = .next ({ s with thresh := threshOf w }.respond .okay) := rfl

theorem threshOf_toNat (w : Word) : (threshOf w).toNat = w.toNat % 65536 :=
  (toNat_extractLsb'_eq_div_mod w 0 16).trans (by simp)

theorem threshOf_eq_ofNat (w : Word) : threshOf w = BitVec.ofNat 16 (w.toNat % 65536) :=
  BitVec.eq_of_toNat_eq (by simp [threshOf_toNat])

/-! ### The plain reads -/

theorem exec_rdCtrl (s : State) : exec .rdCtrl s = .next (s.respond (.rdata (ctrlWord s))) := rfl

theorem exec_rdThresh (s : State) : exec .rdThresh s = .next (s.respond (.rdata (threshWord s))) := rfl

theorem exec_rdLast (s : State) : exec .rdLast s = .next (s.respond (.rdata (lastOutcomeWord s))) := rfl

theorem exec_rdVersion (s : State) :
    exec .rdVersion s = .next (s.respond (.rdata Config.versionId)) := rfl

theorem exec_rdBuildDate (s : State) :
    exec .rdBuildDate s = .next (s.respond (.rdata Config.buildDate)) := rfl

theorem threshWord_eq_ofNat (s : State) : threshWord s = BitVec.ofNat 32 s.thresh.toNat :=
  (BitVec.ofNat_toNat 32 s.thresh).symm

/-- LAST_OUTCOME as a number (10_state.md R40): the code lies below the codeword's place. -/
theorem lastOutcomeWord_toNat (s : State) :
    (lastOutcomeWord s).toNat = s.lastCode.bits.toNat + 65536 * s.lastCw.toNat := by
  have hcode := s.lastCode.bits.isLt
  have hcw : s.lastCw.toNat < 2 ^ 15 := s.lastCw.isLt
  exact toNat_or_shiftLeft (n := 16) (BitVec.toNat_setWidth_of_le (by decide))
    (BitVec.toNat_setWidth_of_le (by decide)) (by omega) (by omega)

/-! ### The mailbox -/

theorem resultWord_of_valid (h : s.mbValid = true) :
    resultWord s = 0x80000000#32 ||| BitVec.ofNat 32 s.mbPayload.toNat := by
  rw [resultWord, if_pos h, BitVec.ofNat_toNat]

theorem resultWord_of_empty (h : s.mbValid = false) : resultWord s = 0#32 :=
  if_neg (Bool.not_eq_true _ ▸ h)

theorem State.clearMailbox_of_empty (h : s.mbValid = false) : s.clearMailbox = s := by
  rw [clearMailbox, ← h]

/-! ### The obligations -/

/-- Settles O11: the data word's bit 0 decides between the two cases of WR_CTRL. -/
theorem wrCtrlSetsDecodeEnable : Obligations.WrCtrlSetsDecodeEnable :=
  fun _ _ => ⟨exec_wrCtrl_enable, exec_wrCtrl_disable⟩

/-- Settles O12: the data word's bits 0 and 1 decide between the three cases of WR_CMD. -/
theorem wrCmdStartsAndStops : Obligations.WrCmdStartsAndStops :=
  fun _ _ => ⟨exec_wrCmd_start, exec_wrCmd_stop, exec_wrCmd_noCommand⟩

/-- Settles O13: the word each read answers is its field, extended with zeros. -/
theorem rdCtrlAndRdThreshReadBack : Obligations.RdCtrlAndRdThreshReadBack := by
  intro s
  rw [← threshWord_eq_ofNat]
  exact ⟨exec_rdCtrl s, exec_rdThresh s⟩

/-- Settles O14: the operand of WR_THRESH is the data word's low half. -/
theorem wrThreshTakesLowHalf : Obligations.WrThreshTakesLowHalf := by
  intro w s
  rw [← threshOf_eq_ofNat]
  exact exec_wrThresh w s

/-- Settles O16: RD_RESULT answers `resultWord` and clears the mailbox, which is already clear where MB_VALID
is 0. -/
theorem rdResultTakesIfValid : Obligations.RdResultTakesIfValid := by
  refine fun s => ⟨fun h => ?_, fun h => ?_⟩
  · rw [← resultWord_of_valid h]
    exact exec_rdResult s
  · rw [exec_rdResult, s.clearMailbox_of_empty h, resultWord_of_empty h]
    rfl

/-- Settles O17: the first read takes what the second publish left, and leaves the mailbox empty for the next. -/
theorem secondPublishReplacesFirst : Obligations.SecondPublishReplacesFirst := by
  intro s p q
  have hvalid : ((s.publish p).publish q).mbValid = true := State.publish_mbValid _ q
  exact ⟨_, _, exec_rdResult _, congrArg Response.rdata (resultWord_of_valid hvalid),
    exec_rdResult _, congrArg Response.rdata (resultWord_of_empty rfl), rfl⟩

/-- Settles O18: each field is a digit of the number `lastOutcomeWord_toNat` gives. -/
theorem rdLastShowsEveryField : Obligations.RdLastShowsEveryField := by
  intro s
  have hv := lastOutcomeWord_toNat s
  have hcode := s.lastCode.bits.isLt
  have hcw : s.lastCw.toNat < 2 ^ 15 := s.lastCw.isLt
  have hbits : (lastOutcomeWord s).extractLsb' 0 4 = s.lastCode.bits :=
    BitVec.eq_of_toNat_eq ((toNat_extractLsb'_eq_div_mod _ _ _).trans (by omega))
  have hword : (lastOutcomeWord s).extractLsb' 16 15 = s.lastCw :=
    BitVec.eq_of_toNat_eq ((toNat_extractLsb'_eq_div_mod _ _ _).trans (by omega))
  exact ⟨_, exec_rdLast s, hbits, extractLsb'_eq_zero_of_toNat (by omega), hword,
    getLsbD_eq_of_toNat (by rw [Bool.toNat_false]; omega)⟩

/-- Settles O19: the reads answer the open parameters themselves. -/
theorem rdVersionAndRdBuildDateReadParameters : Obligations.RdVersionAndRdBuildDateReadParameters :=
  fun s => ⟨exec_rdVersion s, exec_rdBuildDate s⟩

end Sys2Proof.Machine
end

section
/-! The one exception of the block, BusError (60_exceptions.md R254, 30_encoding.md R72), and the agents it does not
tell apart (60_exceptions.md R258, R262). -/

namespace Sys2Proof.Machine

variable {s : State} {t t' : Txn} {e : DecodeError}

/-! ### An illegal selector -/

theorem raiseBusError_of_expected (h : t.expectsError = true) :
    raiseBusError t s = .next (s.respond .error) :=
  if_pos h

theorem raiseBusError_of_unexpected (h : t.expectsError = false) :
    raiseBusError t s = .fault (.busError t.request.off) :=
  if_neg (Bool.eq_false_iff.mp h)

theorem transact_of_decode_error (h : decode t.request = .error e) :
    transact t s = raiseBusError t s := by
  simp only [transact, h]

/-! ### The issuer of a transaction -/

theorem raiseBusError_congr (hr : t.request = t'.request) (he : t.expectsError = t'.expectsError) :
    raiseBusError t s = raiseBusError t' s := by
  simp only [raiseBusError, hr, he]

/-- All that a transaction's effect depends on is its request and whether its issuer expects an error. -/
theorem transact_congr (hr : t.request = t'.request) (he : t.expectsError = t'.expectsError) :
    transact t s = transact t' s := by
  cases hd : decode t.request with
  | ok i => rw [transact_of_decode_ok hd, transact_of_decode_ok (hr ▸ hd)]
  | error e =>
    rw [transact_of_decode_error hd, transact_of_decode_error (hr ▸ hd), raiseBusError_congr hr he]

/-! ### The obligations -/

/-- Settles O6: the step is the transaction's, which raises BusError, and the issuer's expectation decides
between the error response and the fault. -/
theorem illegalSelectorRaisesBusError : Obligations.IllegalSelectorRaisesBusError := by
  intro s t rest e hp hd
  have hstep : step s = raiseBusError t { s with pending := rest } :=
    (step_of_pending_txn hp).trans (transact_of_decode_error hd)
  exact ⟨fun h => hstep.trans (raiseBusError_of_expected h),
    fun h => hstep.trans (raiseBusError_of_unexpected h)⟩

/-- Settles O8: the two transactions have one request and one expectation, and leave the same events pending. -/
theorem issuerDoesNotMatter : Obligations.IssuerDoesNotMatter := by
  intro s r e a b rest
  rw [step_of_pending_txn rfl, step_of_pending_txn rfl]
  exact transact_congr rfl rfl

end Sys2Proof.Machine
end

section
/-! The reset input and the idle port (70_reset_and_hazards.md R280, R281), and the earliest completion of a
frame (R283, R286). -/

namespace Sys2Proof.Safety

open Sys2Proof.Machine

variable {s t u : State}

theorem SameResult.refl (s : State) : SameResult s s := ⟨rfl, rfl, rfl, rfl⟩

theorem SameResult.trans (h : SameResult s t) (h' : SameResult t u) : SameResult s u :=
  ⟨h'.mbValid.trans h.mbValid, h'.mbPayload.trans h.mbPayload, h'.lastCode.trans h.lastCode,
    h'.lastCw.trans h.lastCw⟩

theorem SameResult.respond (h : SameResult s t) (r : Response) : SameResult s (t.respond r) :=
  { h with }

end Sys2Proof.Safety

namespace Sys2Proof.Machine

open Sys2Proof.Safety

variable {s : State}

/-! ### A step without a transaction -/

theorem step_of_pending_nil (h : s.pending = []) : step s = .next s := by
  unfold step
  rw [h]

theorem step_of_pending_reset {rest : List PortEvent} (h : s.pending = .reset :: rest) :
    step s = .next { s with pending := rest }.assertReset := by
  unfold step
  rw [h]

/-! ### The register views after reset -/

theorem exec_rdStatus (s : State) : exec .rdStatus s = .next (s.respond (.rdata (statusWord s))) := rfl

theorem statusWord_assertReset (s : State) : statusWord s.assertReset = 0#32 := by
  simp [statusWord, State.reset, flagWord, Phase.flag]

theorem ctrlWord_assertReset (s : State) : ctrlWord s.assertReset = 0#32 := rfl

theorem threshWord_assertReset (s : State) : threshWord s.assertReset = 0x400#32 := rfl

theorem lastOutcomeWord_assertReset (s : State) : lastOutcomeWord s.assertReset = 0#32 := by
  simp [lastOutcomeWord, State.reset, OutcomeCode.bits]

/-! ### How far a block of PUSHes can bring the window -/

/-- A bound on the window's length after `n` more PUSHes: what it holds, and the samples handed off by then,
which are those beyond the carry's 32 (70_reset_and_hazards.md R283). -/
def State.windowReach (s : State) (n : Nat) : Nat :=
  s.win.length + (s.carry.length + n - Config.carryLen)

theorem State.handoff_win_length_le (s : State) (x : Sample) :
    (s.handoff x).win.length ≤ s.win.length + 1 := by
  rcases s.handoff_cases x with e | ⟨_, _, _, e⟩ | ⟨_, _, _, e⟩ | ⟨_, _, _, e⟩ <;> simp [e]

/-- A PUSH uses up one of the `n + 1` to come: the sample that it adds to the window, if any, leaves the carry. -/
theorem State.windowReach_pushSample_le (s : State) (x : Sample) (n : Nat) :
    (s.pushSample x).windowReach n ≤ s.windowReach (n + 1) := by
  rcases s.pushSample_cases x with ⟨_, e⟩ | ⟨_, _, e⟩ | ⟨_, o, k, hc, hl, e⟩ <;>
    simp only [e, windowReach]
  case inl => omega
  case inr.inl =>
    rw [List.length_append, List.length_singleton]
    omega
  case inr.inr =>
    have hw : ({ s with carry := k ++ [x] }.handoff o).win.length ≤ s.win.length + 1 :=
      handoff_win_length_le _ o
    have hk : (k ++ [x]).length = s.carry.length := by simp [hc]
    simp only [handoff_carry, hk]
    omega

/-- A PUSH completes a window only where it can reach 1102 samples (41_frame_detector.md R122). -/
theorem State.pushSample_sameResult_of_windowReach {n : Nat}
    (h : s.windowReach (n + 1) < Config.winLen) (x : Sample) : SameResult s (s.pushSample x) := by
  refine State.pushSample_sameResult fun ⟨_, _, _, hw, hc⟩ => ?_
  simp only [windowReach] at h
  omega

/-- A block of PUSHes that cannot bring the window to 1102 samples writes no result. -/
theorem State.pushBlock_sameResult (ws : List Word) (h : s.windowReach ws.length < Config.winLen) :
    SameResult s (s.pushBlock ws) := by
  induction ws generalizing s with
  | nil => exact .refl s
  | cons w ws ih =>
    have hpush : SameResult s (s.pushSample (sampleOf w)) := pushSample_sameResult_of_windowReach h _
    have hreach := s.windowReach_pushSample_le (sampleOf w) ws.length
    exact (hpush.respond .okay).trans (ih (hreach.trans_lt h))

/-! ### The obligations -/

/-- Settles O31: the reach of the window bounds it through the block, from any state; the three conditions on the
state before the block are not needed. -/
theorem noFrameCompletesEarly : Obligations.NoFrameCompletesEarly :=
  fun ws s _ _ _ hreach => ⟨_, execAll_submit ws s, State.pushBlock_sameResult ws hreach⟩

/-- Settles O5: the step's own case of an empty port. -/
theorem idleStepChangesNothing : Obligations.IdleStepChangesNothing :=
  fun _ => step_of_pending_nil

/-- Settles O7: the elements are those of `State.assertReset`, and each read answers its view of them. -/
theorem resetInputGivesResetValues : Obligations.ResetInputGivesResetValues := by
  intro s rest h
  refine ⟨_, step_of_pending_reset h, rfl, rfl, rfl, rfl, rfl, rfl, rfl, rfl, rfl, rfl, rfl, ?_⟩
  rw [exec_rdStatus, exec_rdCtrl, exec_rdThresh, exec_rdLast, exec_rdResult,
    State.clearMailbox_of_empty rfl, statusWord_assertReset, ctrlWord_assertReset,
    threshWord_assertReset, lastOutcomeWord_assertReset, resultWord_of_empty rfl]
  exact ⟨rfl, rfl, rfl, rfl, rfl⟩

end Sys2Proof.Machine
end
